-- ==== Sys2Proof/Word.lean ====
section
/-! DEFINITION. The bit-vector types of PGCSUM and its byte strings (00_scope.md R7, R11, R12). -/

namespace Sys2Proof

/-- One byte of a buffer or of the wire (R12). -/
abbrev Byte := BitVec 8

/-- A 16-bit wire field or checksum word (R7, R141). -/
abbrev Half := BitVec 16

/-- A 32-bit register value, bus value or command word (R7, R95). -/
abbrev Word := BitVec 32

/-- A byte string: the byte at index 0 is first on the wire (R12). -/
abbrev Bytes := List Byte

end Sys2Proof
end

