-- ==== Sys2Proof/Syntax.lean ====
section
/-! DEFINITION. The commands of PGCSUM, one constructor per row of the opcode table (30_encoding.md R98). -/

namespace Sys2Proof

/-- The two byte buffers of 20_memory.md R70. -/
inductive Buf where
  | src
  | dst
deriving DecidableEq, Repr

/-- The 19 commands. An operand field of the command word (R95) is an argument of its constructor:
BSEL as the buffer it names, PROTO as a byte, ZF as a truth value. Every other operand is a register. -/
inductive Instr where
  | csumClear
  | csumAdd (buf : Buf)
  | csumPseudo (proto : Byte)
  | csumFinal (zf : Bool)
  | encEth
  | encIpv4
  | encTcp
  | encUdp
  | encIcmp
  | decEth
  | decIpv4
  | decTcp
  | decUdp
  | decIcmp
  | selIcmp
  | selTcp
  | selUdp
  | build
  | loadDefaults
deriving DecidableEq, Repr

end Sys2Proof
end

