-- ==== Sys2Proof/WellFormed.lean ====
section
/-! DEFINITION. When a command word is legal (30_encoding.md R97, R99), written from R97's own formula and
not from the opcode table the decoder reads. A term of `Instr` needs no check: its fields hold exactly
the operand values of R96. -/

namespace Sys2Proof

/-- The OP value of a command (30_encoding.md R98). -/
def opOf : Instr → Byte
  | .csumClear => 0x01
  | .csumAdd _ => 0x02
  | .csumPseudo _ => 0x03
  | .csumFinal _ => 0x04
  | .encEth => 0x10
  | .encIpv4 => 0x11
  | .encTcp => 0x12
  | .encUdp => 0x13
  | .encIcmp => 0x14
  | .decEth => 0x20
  | .decIpv4 => 0x21
  | .decTcp => 0x22
  | .decUdp => 0x23
  | .decIcmp => 0x24
  | .selIcmp => 0x30
  | .selTcp => 0x31
  | .selUdp => 0x32
  | .build => 0x40
  | .loadDefaults => 0x41

/-- OP, bits [7:0] of a command word (R95). -/
def opField (w : Word) : Byte := w.extractLsb' 0 8

/-- OP is one of the values of R98. -/
def opAssigned (op : Byte) : Bool :=
  [(0x01 : Byte), 0x02, 0x03, 0x04, 0x10, 0x11, 0x12, 0x13, 0x14, 0x20, 0x21, 0x22, 0x23, 0x24,
    0x30, 0x31, 0x32, 0x40, 0x41].contains op

/-- `allowed(OP)` of R97: the bits a command may set beyond OP. -/
def allowedBits (op : Byte) : Word :=
  if op = 0x02 then 0x00000100
  else if op = 0x04 then 0x00000200
  else if op = 0x03 then 0x00FF0000
  else 0

/-- `legal(w)` of R97. -/
def legal (w : Word) : Bool :=
  opAssigned (opField w) && (w &&& ~~~(0x000000FF ||| allowedBits (opField w)) == 0)

end Sys2Proof
end

