-- ==== Sys2Proof/Decode.lean ====
section
/-! DEFINITION. The decoder of command words, read from the opcode table's match and mask columns
(30_encoding.md R97, R98), and the encoder, from the fields of R95. -/

namespace Sys2Proof

/-- Why a command word is no command (R99). Either way the command raises ILLEGAL_COMMAND (R268). -/
inductive DecodeError where
  /-- OP is not a value of R98. -/
  | unassignedOp (op : Byte)
  /-- OP is assigned, and a bit outside [7:0] and the command's own fields is set. -/
  | reservedBits (w : Word)
deriving DecidableEq, Repr

/-- One row of the table of R98. -/
structure OpRow where
  pat : Word
  mask : Word
  make : Word → Instr

/-- BSEL, bit 8: 0 = SRC_BUF, 1 = DST_BUF (R95). -/
def bselField (w : Word) : Buf := if w.getLsbD 8 then .dst else .src

/-- ZF, bit 9 (R95). -/
def zfField (w : Word) : Bool := w.getLsbD 9

/-- PROTO, bits [23:16] (R95). -/
def protoField (w : Word) : Byte := w.extractLsb' 16 8

/-- The checksum rows of R98. -/
def checksumRows : List OpRow :=
  [⟨0x00000001, 0xFFFFFFFF, fun _ => .csumClear⟩,
   ⟨0x00000002, 0xFFFFFEFF, fun w => .csumAdd (bselField w)⟩,
   ⟨0x00000003, 0xFF00FFFF, fun w => .csumPseudo (protoField w)⟩,
   ⟨0x00000004, 0xFFFFFDFF, fun w => .csumFinal (zfField w)⟩]

/-- The encode rows of R98. -/
def encodeRows : List OpRow :=
  [⟨0x00000010, 0xFFFFFFFF, fun _ => .encEth⟩,
   ⟨0x00000011, 0xFFFFFFFF, fun _ => .encIpv4⟩,
   ⟨0x00000012, 0xFFFFFFFF, fun _ => .encTcp⟩,
   ⟨0x00000013, 0xFFFFFFFF, fun _ => .encUdp⟩,
   ⟨0x00000014, 0xFFFFFFFF, fun _ => .encIcmp⟩]

/-- The decode rows of R98. -/
def decodeRows : List OpRow :=
  [⟨0x00000020, 0xFFFFFFFF, fun _ => .decEth⟩,
   ⟨0x00000021, 0xFFFFFFFF, fun _ => .decIpv4⟩,
   ⟨0x00000022, 0xFFFFFFFF, fun _ => .decTcp⟩,
   ⟨0x00000023, 0xFFFFFFFF, fun _ => .decUdp⟩,
   ⟨0x00000024, 0xFFFFFFFF, fun _ => .decIcmp⟩]

/-- The builder rows of R98. -/
def builderRows : List OpRow :=
  [⟨0x00000030, 0xFFFFFFFF, fun _ => .selIcmp⟩,
   ⟨0x00000031, 0xFFFFFFFF, fun _ => .selTcp⟩,
   ⟨0x00000032, 0xFFFFFFFF, fun _ => .selUdp⟩,
   ⟨0x00000040, 0xFFFFFFFF, fun _ => .build⟩,
   ⟨0x00000041, 0xFFFFFFFF, fun _ => .loadDefaults⟩]

/-- The opcode map of R98. -/
def opTable : List OpRow := checksumRows ++ encodeRows ++ decodeRows ++ builderRows

/-- A word is the command of the row it matches, `w & mask = match` (R97, R98); a word that matches
no row is rejected by name. -/
def decode (w : Word) : Except DecodeError Instr :=
  match opTable.find? (fun r => w &&& r.mask == r.pat) with
  | some r => .ok (r.make w)
  | none => if opAssigned (opField w) then .error (.reservedBits w) else .error (.unassignedOp (opField w))

/-- The command word of an instruction, from the fields of R95 and the OP values of R98. -/
def encode : Instr → Word
  | .csumClear => 0x00000001
  | .csumAdd buf => 0x00000002 ||| (match buf with | .src => 0 | .dst => 1 <<< 8)
  | .csumPseudo proto => 0x00000003 ||| (proto.setWidth 32 <<< 16)
  | .csumFinal zf => 0x00000004 ||| (if zf then 1 <<< 9 else 0)
  | .encEth => 0x00000010
  | .encIpv4 => 0x00000011
  | .encTcp => 0x00000012
  | .encUdp => 0x00000013
  | .encIcmp => 0x00000014
  | .decEth => 0x00000020
  | .decIpv4 => 0x00000021
  | .decTcp => 0x00000022
  | .decUdp => 0x00000023
  | .decIcmp => 0x00000024
  | .selIcmp => 0x00000030
  | .selTcp => 0x00000031
  | .selUdp => 0x00000032
  | .build => 0x00000040
  | .loadDefaults => 0x00000041

/-- What the decoder reads from a command whose bits are `w`, numbered as the opcode table numbers
them: a command is one 32-bit word (R100), and every bit at or above `nbits` is 0. -/
def decodeTableWord (nbits w : Nat) : Option Instr :=
  match decode (BitVec.ofNat 32 (w % 2 ^ nbits)) with
  | .ok i => some i
  | .error _ => none

end Sys2Proof
end

