-- ==== Sys2Proof/Config.lean ====
section
/-! DEFINITION. The parameters the model takes as arguments (00_scope.md R8), as plain data: a state
carries its own parameters (log 3), so that a statement about every state holds for every value of them. -/

namespace Sys2Proof

/-- The parameters of 00_scope.md R8. `base` is BASE, the host byte address of the block's window,
`bufBytes` is BUF_BYTES and `defaultPayload` is DEFAULT_PAYLOAD. -/
structure Params where
  base : Nat
  bufBytes : Nat
  defaultPayload : Bytes
deriving DecidableEq, Repr

/-- What R8 asks of the parameters: BASE a multiple of 0x80000 and the two bounds. -/
abbrev Params.Ok (p : Params) : Prop :=
  p.base % 0x80000 = 0 ∧ 65549 ≤ p.bufBytes ∧ p.bufBytes ≤ 131072 ∧ p.defaultPayload.length ≤ 65495

/-- The parameters of `State.reset`: BUF_BYTES is the spec's own value. BASE = 0 and an empty
DEFAULT_PAYLOAD are DESIGN CHOICE (log 3): the spec leaves both OPEN, and no statement rests on them. -/
def Params.standard : Params where
  base := 0
  bufBytes := 131072
  defaultPayload := []

end Sys2Proof
end

