-- ==== Sys2Proof/Machine/State.lean ====
section
/-! DEFINITION. The state of PGCSUM as plain data (10_state.md R20, R25), the host operations that drive
it (20_memory.md R90, 70_reset_and_hazards.md R290), why a step can stop, and the state after reset (R291). -/

namespace Sys2Proof.Machine

open Sys2Proof

/-- The error codes a command can raise, by name (60_exceptions.md R261). OK and the reserved codes 7 to 15
are no errors: a command that succeeds leaves none, and no block writes a reserved code (log 8). -/
inductive Err where
  /-- Code 1: a decode input shorter than the layer's minimum header (R262). -/
  | truncatedInput
  /-- Code 2: BUILD with no transport selected (R263). -/
  | unselectedProtocol
  /-- Code 3: ENC_IPV4 with a protocol other than 1, 6, 17 (R264). -/
  | unknownProtocol
  /-- Code 4: a 16-bit length field would exceed 0xFFFF (R265). -/
  | lengthOverflow
  /-- Code 5: a buffer region out of bounds (R267). -/
  | badRegion
  /-- Code 6: a command word that is not legal (R268). -/
  | illegalCommand
deriving DecidableEq, Repr

/-- The four values TSEL can hold (10_state.md R28). -/
inductive TSel where
  | none
  | icmp
  | tcp
  | udp
deriving DecidableEq, Repr

/-- The level of the reset input (70_reset_and_hazards.md R290). -/
inductive ResetLevel where
  | asserted
  | released
deriving DecidableEq, Repr

/-- What a host access does: read, or write a value (20_memory.md R90). -/
inductive BusOp where
  | read
  | write (v : Word)
deriving DecidableEq, Repr

/-- One host bus access: a host byte address, a width in bits and what it does (20_memory.md R70, R74). -/
structure Access where
  addr : Nat
  width : Nat
  op : BusOp
deriving DecidableEq, Repr

/-- One thing the outside world does to the block (R90, R290): a bus access, or a reset event. -/
inductive HostOp where
  | access (a : Access)
  | resetAssert
  | resetRelease
deriving DecidableEq, Repr

/-- A buffer's bytes: (buffer offset, byte) pairs with strictly rising offsets. An offset that is not
listed holds no value (20_memory.md R78). -/
abbrev Memory := List Host.Cell

/-- The canonical form of a buffer: offsets strictly rise. No entry can equal what an unlisted offset
reads as, because an unlisted offset has no value. -/
abbrev Memory.wf (m : Memory) : Prop := m.Pairwise (fun c d => c.1 < d.1)

/-- The registers of R25 that are plain stored fields, by name: all but CMD (stores nothing), STATUS and
TSEL (fields of `State` of their own). -/
inductive Reg where
  | outLen
  | inOff
  | inLen
  | payOff
  | payLen
  | csOff
  | csLen
  | csPlen
  | csumAcc
  | csumRes
  | ethDstHi
  | ethDstLo
  | ethSrcHi
  | ethSrcLo
  | ethType
  | ipTos
  | ipId
  | ipFlags
  | ipFrag
  | ipTtl
  | ipProto
  | ipSrc
  | ipDst
  | ipVerIhl
  | ipTotlen
  | ipCsum
  | tcpSport
  | tcpDport
  | tcpSeq
  | tcpAck
  | tcpFlags
  | tcpWin
  | tcpUrg
  | tcpHlen
  | tcpCsum
  | udpSport
  | udpDport
  | udpLen
  | udpCsum
  | icmpType
  | icmpCode
  | icmpId
  | icmpSeq
  | icmpCsum
deriving DecidableEq, Repr

/-- The stored registers, each exactly as wide as its field bits in R25 (R21). -/
structure Regs where
  outLen : BitVec 32
  inOff : BitVec 32
  inLen : BitVec 32
  payOff : BitVec 32
  payLen : BitVec 32
  csOff : BitVec 32
  csLen : BitVec 32
  csPlen : BitVec 16
  csumAcc : BitVec 32
  csumRes : BitVec 16
  ethDstHi : BitVec 16
  ethDstLo : BitVec 32
  ethSrcHi : BitVec 16
  ethSrcLo : BitVec 32
  ethType : BitVec 16
  ipTos : BitVec 8
  ipId : BitVec 16
  ipFlags : BitVec 3
  ipFrag : BitVec 13
  ipTtl : BitVec 8
  ipProto : BitVec 8
  ipSrc : BitVec 32
  ipDst : BitVec 32
  ipVerIhl : BitVec 8
  ipTotlen : BitVec 16
  ipCsum : BitVec 16
  tcpSport : BitVec 16
  tcpDport : BitVec 16
  tcpSeq : BitVec 32
  tcpAck : BitVec 32
  tcpFlags : BitVec 9
  tcpWin : BitVec 16
  tcpUrg : BitVec 16
  tcpHlen : BitVec 7
  tcpCsum : BitVec 16
  udpSport : BitVec 16
  udpDport : BitVec 16
  udpLen : BitVec 16
  udpCsum : BitVec 16
  icmpType : BitVec 8
  icmpCode : BitVec 8
  icmpId : BitVec 16
  icmpSeq : BitVec 16
  icmpCsum : BitVec 16
deriving DecidableEq, Repr

/-- The reset values of R25, with the length of DEFAULT_PAYLOAD for PAY_LEN. -/
def Regs.reset (payloadLen : Nat) : Regs where
  outLen := 0x00000000
  inOff := 0x00000000
  inLen := 0x00000000
  payOff := 0x00000000
  payLen := BitVec.ofNat 32 payloadLen
  csOff := 0x00000000
  csLen := 0x00000000
  csPlen := 0x0000
  csumAcc := 0x00000000
  csumRes := 0x0000
  ethDstHi := 0xFFFF
  ethDstLo := 0xFFFFFFFF
  ethSrcHi := 0x0011
  ethSrcLo := 0x22334455
  ethType := 0x0800
  ipTos := 0x00
  ipId := 0xD431
  ipFlags := 0b000
  ipFrag := 0x0000
  ipTtl := 0x40
  ipProto := 0x00
  ipSrc := 0xC0A80164
  ipDst := 0xC0A80101
  ipVerIhl := 0x00
  ipTotlen := 0x0000
  ipCsum := 0x0000
  tcpSport := 0x3039
  tcpDport := 0x0050
  tcpSeq := 0x00000000
  tcpAck := 0x00000000
  tcpFlags := 0x002
  tcpWin := 0xFFFF
  tcpUrg := 0x0000
  tcpHlen := 0x00
  tcpCsum := 0x0000
  udpSport := 0x3039
  udpDport := 0x0035
  udpLen := 0x0000
  udpCsum := 0x0000
  icmpType := 0x08
  icmpCode := 0x00
  icmpId := 0x0001
  icmpSeq := 0x0001
  icmpCsum := 0x0000

/-- The whole state: the block's (R20), its parameters (R8; log 3), and the host's side (log 1, log 2). -/
structure State where
  /-- The parameters of R8; no step writes them. -/
  params : Params
  /-- The level of the reset input (R290). -/
  resetIn : ResetLevel
  /-- STATUS.ERRCODE: the error of the most recent command, none when it succeeded (R27, R261). -/
  errcode : Option Err
  /-- STATUS.ERR_STICKY (R27). -/
  errSticky : Bool
  /-- TSEL (R28). -/
  tsel : TSel
  /-- Every other register of R25. -/
  regs : Regs
  /-- SRC_BUF (R70, R78). -/
  src : Memory
  /-- DST_BUF (R70, R78). -/
  dst : Memory
  /-- The host operations not yet performed, first one first (R85; the model's own, log 1). -/
  pending : List HostOp
  /-- What the host's reads have returned, oldest first (R90; the model's own, log 2). -/
  reads : List Word
deriving DecidableEq, Repr

/-- Why the machine stops. -/
inductive Fault where
  /-- A bus error response, naming the access (20_memory.md R74, 60_exceptions.md R282). Raised by a host
  access to the window that the block does not accept. Safe: the spec says no state changes, and asks
  for a fault. -/
  | busError (a : Access)
  /-- A read of a buffer byte that holds no value, naming the buffer and the offset (20_memory.md R78,
  U1, U2). Raised by a host read of a buffer and by the commands that read a region. Safe: the spec
  asks for a fault where the chip returns some byte. -/
  | noValue (buf : Buf) (off : Nat)
deriving DecidableEq, Repr

/-- Why a step has no meaning. -/
inductive Refusal where
  /-- A command that has no meaning yet. Raised by no arm of exec. Safe. -/
  | notModelled (mnemonic : String)
  /-- A host access while reset is asserted (70_reset_and_hazards.md R292, U4). Raised by every host access
  in that state. Safe: the spec asks for a refusal. -/
  | inReset (a : Access)
  /-- A host access outside BASE .. BASE + 0x7FFFF, which the block does not answer (20_memory.md R70,
  R90; log 7). Raised by such an access. Safe. -/
  | outsideWindow (a : Access)
deriving DecidableEq, Repr

/-- The cells of a byte string placed at buffer offset `a`. -/
def Memory.cells (a : Nat) : Bytes → Memory
  | [] => []
  | b :: bs => (a, b) :: Memory.cells (a + 1) bs

/-- The state after release of reset (70_reset_and_hazards.md R291), for the parameters `p`. -/
def State.resetWith (p : Params) : State where
  params := p
  resetIn := .released
  errcode := none
  errSticky := false
  tsel := .none
  regs := Regs.reset p.defaultPayload.length
  src := Memory.cells 0 p.defaultPayload
  dst := []
  pending := []
  reads := []

/-- The machine right after reset (R291), with the parameters of log 3 and nothing for the host to do (log 1). -/
def State.reset : State := State.resetWith Params.standard

end Sys2Proof.Machine
end

