-- ==== Sys2Proof/Machine/RegMap.lean ====
section
/-! DEFINITION. The register map (10_state.md R25): each register's width, access kind and offset, and the
primitives `csr[NAME]`, `csr[NAME] <- v` and `commit` of 00_scope.md R13. -/

namespace Sys2Proof.Machine

open Sys2Proof

/-- The access kinds of 10_state.md R22 that a stored register has. -/
inductive RegAccess where
  | rw
  | ro
deriving DecidableEq, Repr

/-- The number of field bits of a register; its field is bits [width-1:0] (R25). -/
def Reg.width : Reg → Nat
  | .outLen => 32
  | .inOff => 32
  | .inLen => 32
  | .payOff => 32
  | .payLen => 32
  | .csOff => 32
  | .csLen => 32
  | .csPlen => 16
  | .csumAcc => 32
  | .csumRes => 16
  | .ethDstHi => 16
  | .ethDstLo => 32
  | .ethSrcHi => 16
  | .ethSrcLo => 32
  | .ethType => 16
  | .ipTos => 8
  | .ipId => 16
  | .ipFlags => 3
  | .ipFrag => 13
  | .ipTtl => 8
  | .ipProto => 8
  | .ipSrc => 32
  | .ipDst => 32
  | .ipVerIhl => 8
  | .ipTotlen => 16
  | .ipCsum => 16
  | .tcpSport => 16
  | .tcpDport => 16
  | .tcpSeq => 32
  | .tcpAck => 32
  | .tcpFlags => 9
  | .tcpWin => 16
  | .tcpUrg => 16
  | .tcpHlen => 7
  | .tcpCsum => 16
  | .udpSport => 16
  | .udpDport => 16
  | .udpLen => 16
  | .udpCsum => 16
  | .icmpType => 8
  | .icmpCode => 8
  | .icmpId => 16
  | .icmpSeq => 16
  | .icmpCsum => 16

/-- The access kind of a register (R25). -/
def Reg.kind : Reg → RegAccess
  | .outLen => .ro
  | .inOff => .rw
  | .inLen => .rw
  | .payOff => .rw
  | .payLen => .rw
  | .csOff => .rw
  | .csLen => .rw
  | .csPlen => .rw
  | .csumAcc => .rw
  | .csumRes => .ro
  | .ethDstHi => .rw
  | .ethDstLo => .rw
  | .ethSrcHi => .rw
  | .ethSrcLo => .rw
  | .ethType => .rw
  | .ipTos => .rw
  | .ipId => .rw
  | .ipFlags => .rw
  | .ipFrag => .rw
  | .ipTtl => .rw
  | .ipProto => .rw
  | .ipSrc => .rw
  | .ipDst => .rw
  | .ipVerIhl => .ro
  | .ipTotlen => .ro
  | .ipCsum => .ro
  | .tcpSport => .rw
  | .tcpDport => .rw
  | .tcpSeq => .rw
  | .tcpAck => .rw
  | .tcpFlags => .rw
  | .tcpWin => .rw
  | .tcpUrg => .rw
  | .tcpHlen => .ro
  | .tcpCsum => .ro
  | .udpSport => .rw
  | .udpDport => .rw
  | .udpLen => .ro
  | .udpCsum => .ro
  | .icmpType => .rw
  | .icmpCode => .rw
  | .icmpId => .rw
  | .icmpSeq => .rw
  | .icmpCsum => .ro

/-- `csr[NAME]` of R13: the stored field value, zero above its width. -/
def Regs.get (rs : Regs) : Reg → Word
  | .outLen => rs.outLen.setWidth 32
  | .inOff => rs.inOff.setWidth 32
  | .inLen => rs.inLen.setWidth 32
  | .payOff => rs.payOff.setWidth 32
  | .payLen => rs.payLen.setWidth 32
  | .csOff => rs.csOff.setWidth 32
  | .csLen => rs.csLen.setWidth 32
  | .csPlen => rs.csPlen.setWidth 32
  | .csumAcc => rs.csumAcc.setWidth 32
  | .csumRes => rs.csumRes.setWidth 32
  | .ethDstHi => rs.ethDstHi.setWidth 32
  | .ethDstLo => rs.ethDstLo.setWidth 32
  | .ethSrcHi => rs.ethSrcHi.setWidth 32
  | .ethSrcLo => rs.ethSrcLo.setWidth 32
  | .ethType => rs.ethType.setWidth 32
  | .ipTos => rs.ipTos.setWidth 32
  | .ipId => rs.ipId.setWidth 32
  | .ipFlags => rs.ipFlags.setWidth 32
  | .ipFrag => rs.ipFrag.setWidth 32
  | .ipTtl => rs.ipTtl.setWidth 32
  | .ipProto => rs.ipProto.setWidth 32
  | .ipSrc => rs.ipSrc.setWidth 32
  | .ipDst => rs.ipDst.setWidth 32
  | .ipVerIhl => rs.ipVerIhl.setWidth 32
  | .ipTotlen => rs.ipTotlen.setWidth 32
  | .ipCsum => rs.ipCsum.setWidth 32
  | .tcpSport => rs.tcpSport.setWidth 32
  | .tcpDport => rs.tcpDport.setWidth 32
  | .tcpSeq => rs.tcpSeq.setWidth 32
  | .tcpAck => rs.tcpAck.setWidth 32
  | .tcpFlags => rs.tcpFlags.setWidth 32
  | .tcpWin => rs.tcpWin.setWidth 32
  | .tcpUrg => rs.tcpUrg.setWidth 32
  | .tcpHlen => rs.tcpHlen.setWidth 32
  | .tcpCsum => rs.tcpCsum.setWidth 32
  | .udpSport => rs.udpSport.setWidth 32
  | .udpDport => rs.udpDport.setWidth 32
  | .udpLen => rs.udpLen.setWidth 32
  | .udpCsum => rs.udpCsum.setWidth 32
  | .icmpType => rs.icmpType.setWidth 32
  | .icmpCode => rs.icmpCode.setWidth 32
  | .icmpId => rs.icmpId.setWidth 32
  | .icmpSeq => rs.icmpSeq.setWidth 32
  | .icmpCsum => rs.icmpCsum.setWidth 32

/-- `csr[NAME] <- v` of R13: the value is truncated to the register's field bits (R21). -/
def Regs.set (rs : Regs) (v : Word) : Reg → Regs
  | .outLen => { rs with outLen := v.setWidth 32 }
  | .inOff => { rs with inOff := v.setWidth 32 }
  | .inLen => { rs with inLen := v.setWidth 32 }
  | .payOff => { rs with payOff := v.setWidth 32 }
  | .payLen => { rs with payLen := v.setWidth 32 }
  | .csOff => { rs with csOff := v.setWidth 32 }
  | .csLen => { rs with csLen := v.setWidth 32 }
  | .csPlen => { rs with csPlen := v.setWidth 16 }
  | .csumAcc => { rs with csumAcc := v.setWidth 32 }
  | .csumRes => { rs with csumRes := v.setWidth 16 }
  | .ethDstHi => { rs with ethDstHi := v.setWidth 16 }
  | .ethDstLo => { rs with ethDstLo := v.setWidth 32 }
  | .ethSrcHi => { rs with ethSrcHi := v.setWidth 16 }
  | .ethSrcLo => { rs with ethSrcLo := v.setWidth 32 }
  | .ethType => { rs with ethType := v.setWidth 16 }
  | .ipTos => { rs with ipTos := v.setWidth 8 }
  | .ipId => { rs with ipId := v.setWidth 16 }
  | .ipFlags => { rs with ipFlags := v.setWidth 3 }
  | .ipFrag => { rs with ipFrag := v.setWidth 13 }
  | .ipTtl => { rs with ipTtl := v.setWidth 8 }
  | .ipProto => { rs with ipProto := v.setWidth 8 }
  | .ipSrc => { rs with ipSrc := v.setWidth 32 }
  | .ipDst => { rs with ipDst := v.setWidth 32 }
  | .ipVerIhl => { rs with ipVerIhl := v.setWidth 8 }
  | .ipTotlen => { rs with ipTotlen := v.setWidth 16 }
  | .ipCsum => { rs with ipCsum := v.setWidth 16 }
  | .tcpSport => { rs with tcpSport := v.setWidth 16 }
  | .tcpDport => { rs with tcpDport := v.setWidth 16 }
  | .tcpSeq => { rs with tcpSeq := v.setWidth 32 }
  | .tcpAck => { rs with tcpAck := v.setWidth 32 }
  | .tcpFlags => { rs with tcpFlags := v.setWidth 9 }
  | .tcpWin => { rs with tcpWin := v.setWidth 16 }
  | .tcpUrg => { rs with tcpUrg := v.setWidth 16 }
  | .tcpHlen => { rs with tcpHlen := v.setWidth 7 }
  | .tcpCsum => { rs with tcpCsum := v.setWidth 16 }
  | .udpSport => { rs with udpSport := v.setWidth 16 }
  | .udpDport => { rs with udpDport := v.setWidth 16 }
  | .udpLen => { rs with udpLen := v.setWidth 16 }
  | .udpCsum => { rs with udpCsum := v.setWidth 16 }
  | .icmpType => { rs with icmpType := v.setWidth 8 }
  | .icmpCode => { rs with icmpCode := v.setWidth 8 }
  | .icmpId => { rs with icmpId := v.setWidth 16 }
  | .icmpSeq => { rs with icmpSeq := v.setWidth 16 }
  | .icmpCsum => { rs with icmpCsum := v.setWidth 16 }

/-- The layer field registers, the ones R251 lists. -/
def layerFieldRegs : List Reg :=
  [.ethDstHi, .ethDstLo, .ethSrcHi, .ethSrcLo, .ethType, .ipTos,
   .ipId, .ipFlags, .ipFrag, .ipTtl, .ipProto, .ipSrc,
   .ipDst, .tcpSport, .tcpDport, .tcpSeq, .tcpAck, .tcpFlags,
   .tcpWin, .tcpUrg, .udpSport, .udpDport, .icmpType, .icmpCode,
   .icmpId, .icmpSeq]

/-- The pending set `upd` of R13: the registers a command writes, each with its value. -/
abbrev Updates := List (Reg × Word)

/-- All writes of a pending set, applied together at the end of a successful command (R13, R266). -/
def Regs.commit (rs : Regs) : Updates → Regs
  | [] => rs
  | (r, v) :: upd => Regs.commit (rs.set v r) upd

/-- `csr[NAME]` on the whole state. -/
def State.csr (s : State) (r : Reg) : Word := s.regs.get r

/-- The commit of a pending set on the whole state. -/
def State.commit (s : State) (upd : Updates) : State := { s with regs := s.regs.commit upd }

/-- What stands at an offset of the register file: CMD, STATUS and TSEL, or a stored register. -/
inductive Slot where
  | cmd
  | status
  | tsel
  | reg (r : Reg)
deriving DecidableEq, Repr

/-- The control registers of R25 by offset. -/
def controlSlots : List (Nat × Slot) :=
  [(0x000, .cmd), (0x004, .status), (0x008, .tsel)]

/-- The region registers of R25 by offset. -/
def regionSlots : List (Nat × Slot) :=
  [(0x00C, .reg .outLen),
   (0x010, .reg .inOff),
   (0x014, .reg .inLen),
   (0x018, .reg .payOff),
   (0x01C, .reg .payLen)]

/-- The checksum registers of R25 by offset. -/
def checksumSlots : List (Nat × Slot) :=
  [(0x020, .reg .csOff),
   (0x024, .reg .csLen),
   (0x028, .reg .csPlen),
   (0x02C, .reg .csumAcc),
   (0x030, .reg .csumRes)]

/-- The Ethernet registers of R25 by offset. -/
def ethSlots : List (Nat × Slot) :=
  [(0x040, .reg .ethDstHi),
   (0x044, .reg .ethDstLo),
   (0x048, .reg .ethSrcHi),
   (0x04C, .reg .ethSrcLo),
   (0x050, .reg .ethType)]

/-- The IPv4 registers of R25 by offset. -/
def ipSlots : List (Nat × Slot) :=
  [(0x060, .reg .ipTos),
   (0x064, .reg .ipId),
   (0x068, .reg .ipFlags),
   (0x06C, .reg .ipFrag),
   (0x070, .reg .ipTtl),
   (0x074, .reg .ipProto),
   (0x078, .reg .ipSrc),
   (0x07C, .reg .ipDst),
   (0x080, .reg .ipVerIhl),
   (0x084, .reg .ipTotlen),
   (0x088, .reg .ipCsum)]

/-- The TCP registers of R25 by offset. -/
def tcpSlots : List (Nat × Slot) :=
  [(0x0A0, .reg .tcpSport),
   (0x0A4, .reg .tcpDport),
   (0x0A8, .reg .tcpSeq),
   (0x0AC, .reg .tcpAck),
   (0x0B0, .reg .tcpFlags),
   (0x0B4, .reg .tcpWin),
   (0x0B8, .reg .tcpUrg),
   (0x0BC, .reg .tcpHlen),
   (0x0C0, .reg .tcpCsum)]

/-- The UDP registers of R25 by offset. -/
def udpSlots : List (Nat × Slot) :=
  [(0x0D0, .reg .udpSport),
   (0x0D4, .reg .udpDport),
   (0x0D8, .reg .udpLen),
   (0x0DC, .reg .udpCsum)]

/-- The ICMP registers of R25 by offset. -/
def icmpSlots : List (Nat × Slot) :=
  [(0x0E0, .reg .icmpType),
   (0x0E4, .reg .icmpCode),
   (0x0E8, .reg .icmpId),
   (0x0EC, .reg .icmpSeq),
   (0x0F0, .reg .icmpCsum)]

/-- The register map of R25. -/
def regMap : List (Nat × Slot) :=
  controlSlots ++ regionSlots ++ checksumSlots ++ ethSlots ++ ipSlots ++ tcpSlots ++ udpSlots ++ icmpSlots

/-- The register at an offset of the register file, none where R25 lists none. -/
def Slot.atOffset (off : Nat) : Option Slot := (regMap.find? (fun e => e.1 == off)).map Prod.snd

end Sys2Proof.Machine
end

