-- ==== Sys2Proof/Machine/Flags.lean ====
section
/-! DEFINITION. STATUS and TSEL: their codes, what the host reads of them, and the ways STATUS changes
(10_state.md R27, R28; 60_exceptions.md R261, R266). No command sets any other flag (R62). -/

namespace Sys2Proof.Machine

open Sys2Proof

/-- The code of an error, as STATUS.ERRCODE holds it (R261). -/
def Err.code : Err → BitVec 4
  | .truncatedInput => 1
  | .unselectedProtocol => 2
  | .unknownProtocol => 3
  | .lengthOverflow => 4
  | .badRegion => 5
  | .illegalCommand => 6

/-- The value of STATUS.ERRCODE: 0 when the most recent command succeeded (R27). -/
def errcodeField : Option Err → BitVec 4
  | none => 0
  | some e => e.code

/-- A 32-bit read of STATUS: ERRCODE in [3:0], ERR_STICKY in [8], zeros elsewhere (R27). -/
def State.statusWord (s : State) : Word :=
  (errcodeField s.errcode).setWidth 32 ||| (if s.errSticky then 0x100 else 0)

/-- The value TSEL holds: the IPv4 protocol number of the selected transport, 0 for none (R28). -/
def TSel.code : TSel → Byte
  | .none => 0
  | .icmp => 1
  | .tcp => 6
  | .udp => 17

/-- A command that fails writes ERRCODE and sets ERR_STICKY, and changes nothing else (R15, R266). -/
def State.raise (s : State) (e : Err) : State := { s with errcode := some e, errSticky := true }

/-- A command that succeeds writes 0 to ERRCODE and leaves ERR_STICKY (R27, R266). -/
def State.succeed (s : State) : State := { s with errcode := none }

/-- A host write to STATUS: a 1 in bit 8 clears ERR_STICKY; every other bit is ignored (R22, R27). -/
def State.writeStatus (s : State) (v : Word) : State :=
  if v.getLsbD 8 then { s with errSticky := false } else s

end Sys2Proof.Machine
end

