-- ==== Sys2Proof/Machine/Ops.lean ====
section
/-! DEFINITION. The named operations over the buffers (00_scope.md R14; 20_memory.md R78) and the outcome of
a command (60_exceptions.md R266). -/

namespace Sys2Proof.Machine

open Sys2Proof

/-- The byte a buffer holds at an offset, none where it holds no value (R78). -/
def Memory.byteAt : Memory → Nat → Option Byte
  | [], _ => none
  | (k, b) :: m, a => if k = a then some b else Memory.byteAt m a

/-- The `n` bytes at offsets `a` to `a+n-1`, or the lowest of these offsets that holds no value. -/
def Memory.readBytes (m : Memory) : (n a : Nat) → Except Nat Bytes
  | 0, _ => .ok []
  | n + 1, a =>
    match m.byteAt a with
    | none => .error a
    | some b =>
      match Memory.readBytes m n (a + 1) with
      | .error k => .error k
      | .ok bs => .ok (b :: bs)

/-- The buffer with the bytes at offsets `a` to `a+len(bs)-1` set to `bs`, every other offset as before. -/
def Memory.writeBytes (m : Memory) (a : Nat) (bs : Bytes) : Memory :=
  m.filter (fun c => c.1 < a) ++ Memory.cells a bs ++ m.filter (fun c => a + bs.length ≤ c.1)

/-- The buffer of a name (R70). -/
def State.buffer (s : State) : Buf → Memory
  | .src => s.src
  | .dst => s.dst

/-- `MemRead(buf, a, n)` of R14: it faults if any of the bytes holds no value (R78). -/
def memRead (s : State) (buf : Buf) (a n : Nat) : Except Fault Bytes :=
  match (s.buffer buf).readBytes n a with
  | .ok bs => .ok bs
  | .error k => .error (.noValue buf k)

/-- `MemWrite(buf, a, b)` of R14. -/
def memWrite (s : State) (buf : Buf) (a : Nat) (bs : Bytes) : State :=
  match buf with
  | .src => { s with src := s.src.writeBytes a bs }
  | .dst => { s with dst := s.dst.writeBytes a bs }

/-- How the body of a command ends: with all its outputs written, by `raise E`, or at a byte with no value. -/
inductive Ending where
  | done (t : State)
  | raised (e : Err)
  | faulted (f : Fault)
deriving DecidableEq, Repr

/-- The outcome of a command issued in state `s` (R266): a success clears ERRCODE on top of the command's
outputs, a failure changes nothing of `s` but STATUS. -/
def finish (s : State) : Ending → Host.Outcome State Fault Refusal
  | .done t => .next t.succeed
  | .raised e => .next (s.raise e)
  | .faulted f => .fault f

end Sys2Proof.Machine
end

