-- ==== Sys2Proof/Machine/Operands.lean ====
section
/-! DEFINITION. The operand forms of the commands: byte strings and wire numbers (00_scope.md R12), header
fields of an input (42_decode.md), and regions of a buffer (20_memory.md R79). -/

namespace Sys2Proof.Machine

open Sys2Proof

/-- `be16(v)` of R12. -/
def be16 (v : Half) : Bytes := [v.extractLsb' 8 8, v.extractLsb' 0 8]

/-- `be32(v)` of R12. -/
def be32 (v : Word) : Bytes :=
  [v.extractLsb' 24 8, v.extractLsb' 16 8, v.extractLsb' 8 8, v.extractLsb' 0 8]

/-- Two bytes as a big-endian 16-bit number. -/
def half (hi lo : Byte) : Half := hi ++ lo

/-- `b[i]` of R12. Commands ask only for indices below the length (log 13). -/
def rd8 (b : Bytes) (i : Nat) : Byte := b.getD i 0

/-- `rd16(b, i)` of R12. -/
def rd16 (b : Bytes) (i : Nat) : Half := half (rd8 b i) (rd8 b (i + 1))

/-- `rd32(b, i)` of R12. -/
def rd32 (b : Bytes) (i : Nat) : Word := rd16 b i ++ rd16 b (i + 2)

/-- A region is in bounds exactly when `off + len <= BUF_BYTES`, on unbounded naturals (R79). -/
def State.inBounds (s : State) (off len : Nat) : Bool := off + len ≤ s.params.bufBytes

/-- Reads the payload region of SRC_BUF (10_state.md R55). -/
def readPayload (s : State) : Except Fault Bytes :=
  memRead s .src s.regs.payOff.toNat s.regs.payLen.toNat

/-- The payload region is in bounds (R79). -/
def payloadInBounds (s : State) : Bool := s.inBounds s.regs.payOff.toNat s.regs.payLen.toNat

/-- Reads the input region of SRC_BUF (10_state.md R54). -/
def readInput (s : State) : Except Fault Bytes :=
  memRead s .src s.regs.inOff.toNat s.regs.inLen.toNat

/-- The input region is in bounds (R79). -/
def inputInBounds (s : State) : Bool := s.inBounds s.regs.inOff.toNat s.regs.inLen.toNat

end Sys2Proof.Machine
end

