-- ==== Sys2Proof/Machine/Checksum.lean ====
section
/-! DEFINITION. The checksum primitive (40_checksum.md R140 to R145) and the meanings of the four checksum
commands (R146 to R149). -/

namespace Sys2Proof.Machine

open Sys2Proof

/-- `add32(acc, w)` of R140: one's-complement addition with end-around carry at bit 32. -/
def add32 (acc : Word) (w : Half) : Word :=
  let sum := acc.toNat + w.toNat
  if 2 ^ 32 ≤ sum then BitVec.ofNat 32 (sum - 2 ^ 32 + 1) else BitVec.ofNat 32 sum

/-- `words(b)` of R141: 16-bit big-endian words, an odd length padded with one zero byte at its end. -/
def wordsOf : Bytes → List Half
  | [] => []
  | [hi] => [half hi 0]
  | hi :: lo :: bs => half hi lo :: wordsOf bs

/-- `acc_bytes(acc, b)` of R142. -/
def accBytes (acc : Word) (b : Bytes) : Word := (wordsOf b).foldl add32 acc

/-- One pass of the loop of `fold` (R143), on unbounded naturals. -/
def foldPass (acc : Nat) : Nat := if acc / 0x10000 = 0 then acc else acc % 0x10000 + acc / 0x10000

/-- `fold(acc)` of R143: its loop runs at most twice for a 32-bit accumulator. -/
def fold (acc : Word) : Half := BitVec.ofNat 16 (foldPass (foldPass acc.toNat))

/-- `inet_csum(b)` of R144. -/
def inetCsum (b : Bytes) : Half := ~~~ fold (accBytes 0 b)

/-- `pseudo(src4, dst4, proto, len16)` of R145, the 12 bytes of 30_encoding.md R118. -/
def pseudo (src4 dst4 : Bytes) (proto : Byte) (len16 : Half) : Bytes :=
  src4 ++ dst4 ++ [0, proto] ++ be16 len16

/-- The UDP zero rule: a checksum of 0x0000 is delivered as 0xFFFF (41_encode.md R180, 40_checksum.md R149). -/
def zeroRule (c : Half) : Half := if c = 0x0000 then 0xFFFF else c

/-- CSUM_CLEAR (R146). -/
def execCsumClear (s : State) : Host.Outcome State Fault Refusal :=
  finish s (.done (s.commit [(.csumAcc, 0)]))

/-- The body of CSUM_ADD (R147). -/
def csumAddBody (buf : Buf) (s : State) : Ending :=
  if s.inBounds s.regs.csOff.toNat s.regs.csLen.toNat then
    match memRead s buf s.regs.csOff.toNat s.regs.csLen.toNat with
    | .error f => .faulted f
    | .ok b => .done (s.commit [(.csumAcc, accBytes s.regs.csumAcc b)])
  else .raised .badRegion

/-- CSUM_ADD (R147). -/
def execCsumAdd (buf : Buf) (s : State) : Host.Outcome State Fault Refusal :=
  finish s (csumAddBody buf s)

/-- CSUM_PSEUDO (R148). -/
def execCsumPseudo (proto : Byte) (s : State) : Host.Outcome State Fault Refusal :=
  let p := pseudo (be32 s.regs.ipSrc) (be32 s.regs.ipDst) proto s.regs.csPlen
  finish s (.done (s.commit [(.csumAcc, accBytes s.regs.csumAcc p)]))

/-- CSUM_FINAL (R149). -/
def execCsumFinal (zf : Bool) (s : State) : Host.Outcome State Fault Refusal :=
  let r := ~~~ fold s.regs.csumAcc
  let r := if zf then zeroRule r else r
  finish s (.done (s.commit [(.csumRes, r.setWidth 32)]))

end Sys2Proof.Machine
end

