-- ==== Sys2Proof/Machine/Encode.lean ====
section
/-! DEFINITION. The layers' encoding functions (41_encode.md R171 to R182), what every encode command does
(R170), and the meanings of the five encode commands. -/

namespace Sys2Proof.Machine

open Sys2Proof

/-- What a layer function returns: the bytes and the result registers, or the error it raises. -/
abbrev Layer := Except Err (Bytes × Updates)

/-- The Ethernet frame around `pay` with an EtherType (R171; 30_encoding.md R110). -/
def ethFrame (rs : Regs) (etype : Half) (pay : Bytes) : Bytes :=
  be16 rs.ethDstHi ++ be32 rs.ethDstLo ++ be16 rs.ethSrcHi ++ be32 rs.ethSrcLo ++ be16 etype ++ pay

/-- `f_ETH(pay)` (R171). -/
def fEth (rs : Regs) (pay : Bytes) : Layer := .ok (ethFrame rs rs.ethType pay, [])

/-- `(flags << 13) | frag_offset`, bytes 6..7 of the IPv4 header (30_encoding.md R113). -/
def fragWord (rs : Regs) : Half := (rs.ipFlags.setWidth 16 <<< 13) ||| rs.ipFrag.setWidth 16

/-- The 20 IPv4 header bytes with a given checksum field (R172; 30_encoding.md R111, R112). -/
def ipHeader (rs : Regs) (proto : Byte) (totlen csum : Half) : Bytes :=
  [0x45, rs.ipTos] ++ be16 totlen ++ be16 rs.ipId ++ be16 (fragWord rs) ++ [rs.ipTtl, proto]
    ++ be16 csum ++ be32 rs.ipSrc ++ be32 rs.ipDst

/-- `f_IPV4(proto, pay)` (R172). -/
def fIpv4 (rs : Regs) (proto : Byte) (pay : Bytes) : Layer :=
  let tl := 20 + pay.length
  if 0xFFFF < tl then .error .lengthOverflow
  else
    let totlen := BitVec.ofNat 16 tl
    let c := inetCsum (ipHeader rs proto totlen 0)
    .ok (ipHeader rs proto totlen c ++ pay,
      [(.ipVerIhl, 0x45), (.ipTotlen, totlen.setWidth 32), (.ipCsum, c.setWidth 32)])

/-- `(5 << 12) | flags`, bytes 12..13 of the TCP header: data offset 5, reserved bits 0 (R175;
30_encoding.md R115). PRESUMED by the spec itself: the bit positions are general knowledge (K2; log 11). -/
def offsetFlagsWord (rs : Regs) : Half := ((5 : Half) <<< 12) ||| rs.tcpFlags.setWidth 16

/-- The 20 TCP header bytes with a given checksum field (R175; 30_encoding.md R114). -/
def tcpHeader (rs : Regs) (csum : Half) : Bytes :=
  be16 rs.tcpSport ++ be16 rs.tcpDport ++ be32 rs.tcpSeq ++ be32 rs.tcpAck ++ be16 (offsetFlagsWord rs)
    ++ be16 rs.tcpWin ++ be16 csum ++ be16 rs.tcpUrg

/-- `tcp_csum(seg, ln)` (R176). -/
def tcpCsum (rs : Regs) (seg : Bytes) (ln : Half) : Half :=
  inetCsum (pseudo (be32 rs.ipSrc) (be32 rs.ipDst) 6 ln ++ seg)

/-- `f_TCP(pay)` (R175). -/
def fTcp (rs : Regs) (pay : Bytes) : Layer :=
  let ln := 20 + pay.length
  if 0xFFFF < ln then .error .lengthOverflow
  else
    let c := tcpCsum rs (tcpHeader rs 0 ++ pay) (BitVec.ofNat 16 ln)
    .ok (tcpHeader rs c ++ pay, [(.tcpHlen, 0x28), (.tcpCsum, c.setWidth 32)])

/-- The 8 UDP header bytes with a given checksum field (R178; 30_encoding.md R116). -/
def udpHeader (rs : Regs) (ln csum : Half) : Bytes :=
  be16 rs.udpSport ++ be16 rs.udpDport ++ be16 ln ++ be16 csum

/-- `udp_csum(dgram, ln)`: the checksum of R179 under the zero rule of R180. -/
def udpCsum (rs : Regs) (dgram : Bytes) (ln : Half) : Half :=
  zeroRule (inetCsum (pseudo (be32 rs.ipSrc) (be32 rs.ipDst) 17 ln ++ dgram))

/-- `f_UDP(pay)` (R178). -/
def fUdp (rs : Regs) (pay : Bytes) : Layer :=
  let ln := 8 + pay.length
  if 0xFFFF < ln then .error .lengthOverflow
  else
    let ln := BitVec.ofNat 16 ln
    let c := udpCsum rs (udpHeader rs ln 0 ++ pay) ln
    .ok (udpHeader rs ln c ++ pay, [(.udpLen, ln.setWidth 32), (.udpCsum, c.setWidth 32)])

/-- The 8 ICMP header bytes with a given checksum field (R182; 30_encoding.md R117). -/
def icmpHeader (rs : Regs) (csum : Half) : Bytes :=
  [rs.icmpType, rs.icmpCode] ++ be16 csum ++ be16 rs.icmpId ++ be16 rs.icmpSeq

/-- `f_ICMP(pay)` (R182). -/
def fIcmp (rs : Regs) (pay : Bytes) : Layer :=
  let c := inetCsum (icmpHeader rs 0 ++ pay)
  .ok (icmpHeader rs c ++ pay, [(.icmpCsum, c.setWidth 32)])

/-- The end of ENC_X and BUILD: the check of the output region, then all outputs together (R170, R240). -/
def emit (s : State) : Layer → Ending
  | .error e => .raised e
  | .ok (out, res) =>
    if out.length ≤ s.params.bufBytes then
      .done (memWrite (s.commit (res ++ [(.outLen, BitVec.ofNat 32 out.length)])) .dst 0 out)
    else .raised .badRegion

/-- What every encode command does (R170), in the order of checks of 60_exceptions.md R271. `protoOk` is
ENC_IPV4's protocol check, true for the other commands. -/
def encodeBody (s : State) (protoOk : Bool) (layer : Bytes → Layer) : Ending :=
  if !payloadInBounds s then .raised .badRegion
  else if !protoOk then .raised .unknownProtocol
  else
    match readPayload s with
    | .error f => .faulted f
    | .ok pay => emit s (layer pay)

/-- IP_PROTO is 1, 6 or 17 (R173). -/
def knownProto (proto : Byte) : Bool := proto == 1 || proto == 6 || proto == 17

/-- ENC_ETH (R171). -/
def execEncEth (s : State) : Host.Outcome State Fault Refusal :=
  finish s (encodeBody s true (fEth s.regs))

/-- ENC_IPV4 (R173). -/
def execEncIpv4 (s : State) : Host.Outcome State Fault Refusal :=
  finish s (encodeBody s (knownProto s.regs.ipProto) (fIpv4 s.regs s.regs.ipProto))

/-- ENC_TCP (R177). -/
def execEncTcp (s : State) : Host.Outcome State Fault Refusal :=
  finish s (encodeBody s true (fTcp s.regs))

/-- ENC_UDP (R181). -/
def execEncUdp (s : State) : Host.Outcome State Fault Refusal :=
  finish s (encodeBody s true (fUdp s.regs))

/-- ENC_ICMP (R183). -/
def execEncIcmp (s : State) : Host.Outcome State Fault Refusal :=
  finish s (encodeBody s true (fIcmp s.regs))

end Sys2Proof.Machine
end

