-- ==== Sys2Proof/Machine/Builder.lean ====
section
/-! DEFINITION. The builder commands (43_builder.md): transport selection (R230 to R233), BUILD (R240) and
LOAD_DEFAULTS (R251). -/

namespace Sys2Proof.Machine

open Sys2Proof

/-- Selecting a transport writes TSEL and nothing else (R233). -/
def State.select (s : State) (t : TSel) : State := { s with tsel := t }

/-- SEL_ICMP (R230). -/
def execSelIcmp (s : State) : Host.Outcome State Fault Refusal := finish s (.done (s.select .icmp))

/-- SEL_TCP (R231). -/
def execSelTcp (s : State) : Host.Outcome State Fault Refusal := finish s (.done (s.select .tcp))

/-- SEL_UDP (R232). -/
def execSelUdp (s : State) : Host.Outcome State Fault Refusal := finish s (.done (s.select .udp))

/-- Steps (1) and (2) of BUILD: the transport TSEL names, around the payload (R240). With no transport
selected BUILD ends before this step, and the layer raises the same error. -/
def transportLayer (rs : Regs) (t : TSel) (pay : Bytes) : Layer :=
  match t with
  | .none => .error .unselectedProtocol
  | .icmp => fIcmp rs pay
  | .tcp => fTcp rs pay
  | .udp => fUdp rs pay

/-- Steps (3) to (6) of BUILD: the IPv4 packet with TSEL as its protocol byte and the Ethernet frame with
EtherType 0x0800 around a transport's bytes; the result registers of both layers (R240). -/
def frameLayer (rs : Regs) (t : TSel) (transport : Bytes × Updates) : Layer :=
  match fIpv4 rs t.code transport.1 with
  | .error e => .error e
  | .ok (ip, r2) => .ok (ethFrame rs 0x0800 ip, transport.2 ++ r2)

/-- The whole frame of BUILD (R240). -/
def buildLayer (rs : Regs) (t : TSel) (pay : Bytes) : Layer :=
  match transportLayer rs t pay with
  | .error e => .error e
  | .ok transport => frameLayer rs t transport

/-- The body of BUILD (R240), in the order of checks of 60_exceptions.md R271. -/
def buildBody (s : State) : Ending :=
  if s.tsel = .none then .raised .unselectedProtocol
  else if !payloadInBounds s then .raised .badRegion
  else
    match readPayload s with
    | .error f => .faulted f
    | .ok pay => emit s (buildLayer s.regs s.tsel pay)

/-- BUILD (R240). -/
def execBuild (s : State) : Host.Outcome State Fault Refusal := finish s (buildBody s)

/-- The registers LOAD_DEFAULTS writes: every layer field register, PAY_OFF and PAY_LEN, each to its reset
value of 10_state.md R25 (R251). -/
def defaultUpdates (p : Params) : Updates :=
  (layerFieldRegs ++ [Reg.payOff, Reg.payLen]).map (fun r => (r, (State.resetWith p).csr r))

/-- LOAD_DEFAULTS (R251). -/
def execLoadDefaults (s : State) : Host.Outcome State Fault Refusal :=
  finish s (.done (memWrite ((s.commit (defaultUpdates s.params)).select .none) .src 0 s.params.defaultPayload))

end Sys2Proof.Machine
end

