-- ==== Sys2Proof/Machine/Decoders.lean ====
section
/-! DEFINITION. What every decode command does (42_decode.md R200), the layers' decoding functions and the
meanings of the five decode commands (R201 to R209). -/

namespace Sys2Proof.Machine

open Sys2Proof

/-- `g_ETH(b)` (R201). -/
def gEth (b : Bytes) : Updates × Nat :=
  ([(.ethDstHi, (rd16 b 0).setWidth 32), (.ethDstLo, rd32 b 2), (.ethSrcHi, (rd16 b 6).setWidth 32),
    (.ethSrcLo, rd32 b 8), (.ethType, (rd16 b 12).setWidth 32)], 14)

/-- `g_IPV4(b)` (R203): the header length is IHL in 32-bit words. -/
def gIpv4 (b : Bytes) : Updates × Nat :=
  let fw := rd16 b 6
  ([(.ipVerIhl, (rd8 b 0).setWidth 32), (.ipTos, (rd8 b 1).setWidth 32), (.ipTotlen, (rd16 b 2).setWidth 32),
    (.ipId, (rd16 b 4).setWidth 32), (.ipFlags, (fw >>> 13).setWidth 32),
    (.ipFrag, (fw &&& 0x1FFF).setWidth 32), (.ipTtl, (rd8 b 8).setWidth 32),
    (.ipProto, (rd8 b 9).setWidth 32), (.ipCsum, (rd16 b 10).setWidth 32),
    (.ipSrc, rd32 b 12), (.ipDst, rd32 b 16)], (rd8 b 0 &&& 0x0F).toNat * 4)

/-- `g_TCP(b)` (R205): the header length is the data offset in 32-bit words. -/
def gTcp (b : Bytes) : Updates × Nat :=
  let of := rd16 b 12
  ([(.tcpSport, (rd16 b 0).setWidth 32), (.tcpDport, (rd16 b 2).setWidth 32), (.tcpSeq, rd32 b 4),
    (.tcpAck, rd32 b 8), (.tcpHlen, (of >>> 9).setWidth 32), (.tcpFlags, (of &&& 0x1FF).setWidth 32),
    (.tcpWin, (rd16 b 14).setWidth 32), (.tcpCsum, (rd16 b 16).setWidth 32),
    (.tcpUrg, (rd16 b 18).setWidth 32)], (of >>> 12).toNat * 4)

/-- `g_UDP(b)` (R207). -/
def gUdp (b : Bytes) : Updates × Nat :=
  ([(.udpSport, (rd16 b 0).setWidth 32), (.udpDport, (rd16 b 2).setWidth 32),
    (.udpLen, (rd16 b 4).setWidth 32), (.udpCsum, (rd16 b 6).setWidth 32)], 8)

/-- `g_ICMP(b)` (R209). -/
def gIcmp (b : Bytes) : Updates × Nat :=
  ([(.icmpType, (rd8 b 0).setWidth 32), (.icmpCode, (rd8 b 1).setWidth 32),
    (.icmpCsum, (rd16 b 2).setWidth 32), (.icmpId, (rd16 b 4).setWidth 32),
    (.icmpSeq, (rd16 b 6).setWidth 32)], 8)

/-- The payload region a decode leaves, for a header of `hl` bytes: `k = min(hl, IN_LEN)` (R200). -/
def payloadRegion (s : State) (hl : Nat) : Updates :=
  let k := min hl s.regs.inLen.toNat
  [(.payOff, BitVec.ofNat 32 (s.regs.inOff.toNat + k)), (.payLen, BitVec.ofNat 32 (s.regs.inLen.toNat - k))]

/-- What every decode command does (R200), in the order of checks of 60_exceptions.md R271. -/
def decodeBody (s : State) (minLen : Nat) (layer : Bytes → Updates × Nat) : Ending :=
  if !inputInBounds s then .raised .badRegion
  else if s.regs.inLen.toNat < minLen then .raised .truncatedInput
  else
    match readInput s with
    | .error f => .faulted f
    | .ok b => .done (s.commit ((layer b).1 ++ payloadRegion s (layer b).2))

/-- DEC_ETH (R201). -/
def execDecEth (s : State) : Host.Outcome State Fault Refusal := finish s (decodeBody s 14 gEth)

/-- DEC_IPV4 (R203, R204). -/
def execDecIpv4 (s : State) : Host.Outcome State Fault Refusal := finish s (decodeBody s 20 gIpv4)

/-- DEC_TCP (R205, R206). -/
def execDecTcp (s : State) : Host.Outcome State Fault Refusal := finish s (decodeBody s 20 gTcp)

/-- DEC_UDP (R207). -/
def execDecUdp (s : State) : Host.Outcome State Fault Refusal := finish s (decodeBody s 8 gUdp)

/-- DEC_ICMP (R209). -/
def execDecIcmp (s : State) : Host.Outcome State Fault Refusal := finish s (decodeBody s 8 gIcmp)

end Sys2Proof.Machine
end

