-- ==== Sys2Proof/Machine/Dispatch.lean ====
section
/-! DEFINITION. One arm per command of 30_encoding.md R98. -/

namespace Sys2Proof.Machine

open Sys2Proof

/-- The meaning of a command (60_exceptions.md R266). -/
def exec (i : Instr) (s : State) : Host.Outcome State Fault Refusal :=
  match i with
  | .csumClear => Sys2Proof.Machine.execCsumClear s
  | .csumAdd buf => Sys2Proof.Machine.execCsumAdd buf s
  | .csumPseudo proto => Sys2Proof.Machine.execCsumPseudo proto s
  | .csumFinal zf => Sys2Proof.Machine.execCsumFinal zf s
  | .encEth => Sys2Proof.Machine.execEncEth s
  | .encIpv4 => Sys2Proof.Machine.execEncIpv4 s
  | .encTcp => Sys2Proof.Machine.execEncTcp s
  | .encUdp => Sys2Proof.Machine.execEncUdp s
  | .encIcmp => Sys2Proof.Machine.execEncIcmp s
  | .decEth => Sys2Proof.Machine.execDecEth s
  | .decIpv4 => Sys2Proof.Machine.execDecIpv4 s
  | .decTcp => Sys2Proof.Machine.execDecTcp s
  | .decUdp => Sys2Proof.Machine.execDecUdp s
  | .decIcmp => Sys2Proof.Machine.execDecIcmp s
  | .selIcmp => Sys2Proof.Machine.execSelIcmp s
  | .selTcp => Sys2Proof.Machine.execSelTcp s
  | .selUdp => Sys2Proof.Machine.execSelUdp s
  | .build => Sys2Proof.Machine.execBuild s
  | .loadDefaults => Sys2Proof.Machine.execLoadDefaults s

end Sys2Proof.Machine
end

