-- ==== Sys2Proof/Machine/Bus.lean ====
section
/-! DEFINITION. Host operations: bus accesses to the window (20_memory.md R70 to R74, R90), the CMD write
(10_state.md R26, 60_exceptions.md R266) and the reset events (70_reset_and_hazards.md R290 to R292). -/

namespace Sys2Proof.Machine

open Sys2Proof

/-- `run(w)` of R266: a legal word runs its command, any other raises ILLEGAL_COMMAND (R268). -/
def runCommand (w : Word) (s : State) : Host.Outcome State Fault Refusal :=
  match decode w with
  | .error _ => .next (s.raise .illegalCommand)
  | .ok i => exec i s

/-- A read's value goes back to the host; no read changes the block (R81; log 2). -/
def State.returned (s : State) (v : Word) : State := { s with reads := s.reads ++ [v] }

/-- A 32-bit write to a register (10_state.md R21, R22): CMD runs the word, STATUS is W1C in bit 8, a
write to a read-only register completes and changes nothing. -/
def writeSlot (slot : Slot) (v : Word) (s : State) : Host.Outcome State Fault Refusal :=
  match slot with
  | .cmd => runCommand v s
  | .status => .next (s.writeStatus v)
  | .tsel => .next s
  | .reg r =>
    match r.kind with
    | .rw => .next (s.commit [(r, v)])
    | .ro => .next s

/-- A 32-bit read of a register (10_state.md R21, R22): CMD reads 0 (R26). -/
def readSlot (slot : Slot) (s : State) : Word :=
  match slot with
  | .cmd => 0
  | .status => s.statusWord
  | .tsel => s.tsel.code.setWidth 32
  | .reg r => s.csr r

/-- A host access to the register file at window offset `off` (R73, R74). -/
def regAccess (a : Access) (off : Nat) (s : State) : Host.Outcome State Fault Refusal :=
  if a.width = 32 ∧ off % 4 = 0 then
    match Slot.atOffset off with
    | none => .fault (.busError a)
    | some slot =>
      match a.op with
      | .read => .next (s.returned (readSlot slot s))
      | .write v => writeSlot slot v s
  else .fault (.busError a)

/-- A host access of `n` bytes at offset `off` of a buffer: an 8-bit read gives the byte, a 32-bit access
is big-endian (R72, R76). The bytes must lie below BUF_BYTES (R74; log 6). -/
def bufBytesAccess (a : Access) (buf : Buf) (off n : Nat) (value : Bytes → Word) (bytes : Word → Bytes)
    (s : State) : Host.Outcome State Fault Refusal :=
  if s.inBounds off n then
    match a.op with
    | .read =>
      match memRead s buf off n with
      | .error f => .fault f
      | .ok bs => .next (s.returned (value bs))
    | .write v => .next (memWrite s buf off (bytes v))
  else .fault (.busError a)

/-- A host access to a buffer at buffer offset `off`: 8-bit anywhere, 32-bit at a multiple of 4 (R72, R74). -/
def bufAccess (a : Access) (buf : Buf) (off : Nat) (s : State) : Host.Outcome State Fault Refusal :=
  if a.width = 8 then
    bufBytesAccess a buf off 1 (fun bs => (rd8 bs 0).setWidth 32) (fun v => [v.extractLsb' 0 8]) s
  else if a.width = 32 ∧ off % 4 = 0 then
    bufBytesAccess a buf off 4 (fun bs => rd32 bs 0) be32 s
  else .fault (.busError a)

/-- A host access at window offset `off`, by the spaces of R70. -/
def windowAccess (a : Access) (off : Nat) (s : State) : Host.Outcome State Fault Refusal :=
  if off < 0x1000 then regAccess a off s
  else if 0x20000 ≤ off ∧ off < 0x40000 then bufAccess a .src (off - 0x20000) s
  else if 0x40000 ≤ off ∧ off < 0x60000 then bufAccess a .dst (off - 0x40000) s
  else .fault (.busError a)

/-- A host bus access (R70, R90): the block answers the window BASE .. BASE + 0x7FFFF and nothing else
(log 7), and refuses every access while reset is asserted (70_reset_and_hazards.md R292). -/
def busAccess (a : Access) (s : State) : Host.Outcome State Fault Refusal :=
  if s.params.base ≤ a.addr ∧ a.addr < s.params.base + 0x80000 then
    match s.resetIn with
    | .asserted => .refused (.inReset a)
    | .released => windowAccess a (a.addr - s.params.base) s
  else .refused (.outsideWindow a)

/-- Reset asserted: only the level is observable until release (R290, U5; log 4). -/
def State.assertReset (s : State) : State := { s with resetIn := .asserted }

/-- Release of an asserted reset leaves the state of R291, whatever the state before; the parameters and
the host's side are not the block's. Releasing a reset that is not asserted is no event (log 4). -/
def State.releaseReset (s : State) : State :=
  match s.resetIn with
  | .asserted => { State.resetWith s.params with pending := s.pending, reads := s.reads }
  | .released => s

/-- One thing the outside world does to the block (R90, R290). -/
def hostOp (op : HostOp) (s : State) : Host.Outcome State Fault Refusal :=
  match op with
  | .access a => busAccess a s
  | .resetAssert => .next s.assertReset
  | .resetRelease => .next s.releaseReset

/-- The host performs its next operation; with none left the block is idle (R9, R85, R303; log 1). -/
def hostStep (s : State) : Host.Outcome State Fault Refusal :=
  match s.pending with
  | [] => .next s
  | op :: rest => hostOp op { s with pending := rest }

/-- The host's 32-bit write of `w` to CMD, at window offset 0 (10_state.md R26; 30_encoding.md R134). -/
def State.cmdWrite (s : State) (w : Word) : HostOp :=
  .access { addr := s.params.base, width := 32, op := .write w }

end Sys2Proof.Machine
end

