-- ==== Sys2Proof/Machine/Step.lean ====
section
/-! DEFINITION. One step of the machine: the host's next operation (00_scope.md R9, R10). -/

namespace Sys2Proof.Machine

open Sys2Proof

/-- One step: the next state, a fault or a refusal (R10). -/
def step (s : State) : Host.Outcome State Fault Refusal := hostStep s

/-- The state in which the host's next operation is the CMD write of the word whose bits are `w`, as the
opcode table numbers them, with reset released, so that the next step runs exactly that command. The block
fetches nothing (10_state.md R61): a command comes from the host (log 1). -/
def State.withFetchWord (s : State) (nbits w : Nat) : State :=
  { s with resetIn := .released, pending := s.cmdWrite (BitVec.ofNat 32 (w % 2 ^ nbits)) :: s.pending }

end Sys2Proof.Machine
end

