-- ==== Sys2Proof/Safety.lean ====
section
/-! DEFINITION. The words the claims are stated in: a sound state, a safe step, what a region holds, and the
ways a command can end. They speak of a buffer only through the read of one byte. -/

namespace Sys2Proof.Machine

open Sys2Proof

/-- A buffer is sound: canonical, and every byte that holds a value lies below BUF_BYTES (20_memory.md R71). -/
abbrev Memory.Sound (m : Memory) (size : Nat) : Prop := m.wf ∧ ∀ c ∈ m, c.1 < size

/-- The invariant of the machine: parameters within the bounds of 00_scope.md R8, and both buffers sound. -/
abbrev State.Inv (s : State) : Prop :=
  s.params.Ok ∧ s.src.Sound s.params.bufBytes ∧ s.dst.Sound s.params.bufBytes

/-- The output is there: OUT_LEN bytes from DST_BUF offset 0 hold values (10_state.md R29). -/
def State.OutputHeld (s : State) : Prop :=
  s.regs.outLen.toNat ≤ s.params.bufBytes ∧ ∀ k, k < s.regs.outLen.toNat → s.dst.byteAt k ≠ none

/-- A step is safe when it answers a next state: neither a fault nor a refusal (R10, R303). -/
def State.StepsSafely (s : State) : Prop := ∃ t, step s = .next t

/-- The host has nothing left to do: the state is the observation of the run (70_reset_and_hazards.md R303). -/
abbrev State.Final (s : State) : Prop := s.pending = []

/-- The bytes of a buffer from an offset on are these. -/
def State.Holds (s : State) (buf : Buf) (off : Nat) (bs : Bytes) : Prop :=
  ∀ i (h : i < bs.length), (s.buffer buf).byteAt (off + i) = some bs[i]

/-- Some byte of a region holds no value (20_memory.md R78). -/
def State.Lacks (s : State) (buf : Buf) (off len : Nat) : Prop :=
  ∃ k, off ≤ k ∧ k < off + len ∧ (s.buffer buf).byteAt k = none

/-- `m'` is `m` with the bytes `bs` at offset `a`: inside them it reads these bytes, outside as `m`. -/
def Stored (m m' : Memory) (a : Nat) (bs : Bytes) : Prop :=
  ∀ k, m'.byteAt k = if a ≤ k ∧ k < a + bs.length then bs[k - a]? else m.byteAt k

/-- The payload region is in bounds and holds the bytes `pay` (10_state.md R55). -/
def State.PayloadIs (s : State) (pay : Bytes) : Prop :=
  s.regs.payOff.toNat + s.regs.payLen.toNat ≤ s.params.bufBytes ∧ pay.length = s.regs.payLen.toNat ∧
    s.Holds .src s.regs.payOff.toNat pay

/-- The input region is in bounds and holds the bytes `b` (10_state.md R54). -/
def State.InputIs (s : State) (b : Bytes) : Prop :=
  s.regs.inOff.toNat + s.regs.inLen.toNat ≤ s.params.bufBytes ∧ b.length = s.regs.inLen.toNat ∧
    s.Holds .src s.regs.inOff.toNat b

/-- The command fails: ERRCODE holds the error, ERR_STICKY is set, nothing else changes (60_exceptions.md R266). -/
def Fails (i : Instr) (s : State) (e : Err) : Prop :=
  exec i s = .next { s with errcode := some e, errSticky := true }

/-- The command succeeds and leaves these registers; nothing else changes but ERRCODE. -/
def Completes (i : Instr) (s : State) (rs : Regs) : Prop :=
  exec i s = .next { s with errcode := none, regs := rs }

/-- The command succeeds, leaves these registers and stores `out` at DST_BUF offset 0; nothing else changes
but ERRCODE, and every byte of DST_BUF outside `out` reads as before. -/
def Emits (i : Instr) (s : State) (rs : Regs) (out : Bytes) : Prop :=
  ∃ d, exec i s = .next { s with errcode := none, regs := rs, dst := d } ∧ Stored s.dst d 0 out

/-- The outcome is the fault of a byte of the region that holds no value, and names it (R78, U2). -/
def FaultsInRegion (o : Host.Outcome State Fault Refusal) (s : State) (buf : Buf) (off len : Nat) : Prop :=
  ∃ k, off ≤ k ∧ k < off + len ∧ (s.buffer buf).byteAt k = none ∧ o = .fault (.noValue buf k)

/-- Every illegal word that carries this OP changes STATUS alone (30_encoding.md R97). -/
def IllegalForms (op : Byte) (s : State) : Prop :=
  ∀ w, opField w = op → legal w = false →
    runCommand w s = .next { s with errcode := some .illegalCommand, errSticky := true }

/-- The host's next operation is this bus access, and reset is released. -/
def State.Issues (s : State) (a : Access) (rest : List HostOp) : Prop :=
  s.pending = .access a :: rest ∧ s.resetIn = .released

/-- The window offset at which a buffer begins (20_memory.md R70). -/
def bufferBase : Buf → Nat
  | .src => 0x20000
  | .dst => 0x40000

end Sys2Proof.Machine
end

