-- ==== Sys2Proof/Certificates/Slice0/Obligations.lean ====
section
/-! DEFINITION. The statements for the provers. Each formalises what the spec says an instruction or the
machine does; the wire layouts and the register table are written out again here, from the spec. -/

namespace Sys2Proof.Claims

open Sys2Proof Sys2Proof.Machine

/-- The register table of 10_state.md R25, without CMD, STATUS and TSEL: offset, register, access kind and
number of field bits. -/
def registerTable : List (Nat × Reg × RegAccess × Nat) :=
  [(0x00C, .outLen, .ro, 32),
   (0x010, .inOff, .rw, 32),
   (0x014, .inLen, .rw, 32),
   (0x018, .payOff, .rw, 32),
   (0x01C, .payLen, .rw, 32),
   (0x020, .csOff, .rw, 32),
   (0x024, .csLen, .rw, 32),
   (0x028, .csPlen, .rw, 16),
   (0x02C, .csumAcc, .rw, 32),
   (0x030, .csumRes, .ro, 16),
   (0x040, .ethDstHi, .rw, 16)] ++
  [(0x044, .ethDstLo, .rw, 32),
   (0x048, .ethSrcHi, .rw, 16),
   (0x04C, .ethSrcLo, .rw, 32),
   (0x050, .ethType, .rw, 16),
   (0x060, .ipTos, .rw, 8),
   (0x064, .ipId, .rw, 16),
   (0x068, .ipFlags, .rw, 3),
   (0x06C, .ipFrag, .rw, 13),
   (0x070, .ipTtl, .rw, 8),
   (0x074, .ipProto, .rw, 8),
   (0x078, .ipSrc, .rw, 32)] ++
  [(0x07C, .ipDst, .rw, 32),
   (0x080, .ipVerIhl, .ro, 8),
   (0x084, .ipTotlen, .ro, 16),
   (0x088, .ipCsum, .ro, 16),
   (0x0A0, .tcpSport, .rw, 16),
   (0x0A4, .tcpDport, .rw, 16),
   (0x0A8, .tcpSeq, .rw, 32),
   (0x0AC, .tcpAck, .rw, 32),
   (0x0B0, .tcpFlags, .rw, 9),
   (0x0B4, .tcpWin, .rw, 16),
   (0x0B8, .tcpUrg, .rw, 16)] ++
  [(0x0BC, .tcpHlen, .ro, 7),
   (0x0C0, .tcpCsum, .ro, 16),
   (0x0D0, .udpSport, .rw, 16),
   (0x0D4, .udpDport, .rw, 16),
   (0x0D8, .udpLen, .ro, 16),
   (0x0DC, .udpCsum, .ro, 16),
   (0x0E0, .icmpType, .rw, 8),
   (0x0E4, .icmpCode, .rw, 8),
   (0x0E8, .icmpId, .rw, 16),
   (0x0EC, .icmpSeq, .rw, 16),
   (0x0F0, .icmpCsum, .ro, 16)]

/-- The offsets R25 lists, CMD, STATUS and TSEL included. -/
def listedOffsets : List Nat := [0x000, 0x004, 0x008] ++ registerTable.map Prod.fst

/-- The reset values of R25, but PAY_LEN's. -/
def resetTable : List (Reg × Word) :=
  [(.outLen, 0x00000000),
   (.inOff, 0x00000000),
   (.inLen, 0x00000000),
   (.payOff, 0x00000000),
   (.csOff, 0x00000000),
   (.csLen, 0x00000000),
   (.csPlen, 0x0000),
   (.csumAcc, 0x00000000),
   (.csumRes, 0x0000),
   (.ethDstHi, 0xFFFF),
   (.ethDstLo, 0xFFFFFFFF)] ++
  [(.ethSrcHi, 0x0011),
   (.ethSrcLo, 0x22334455),
   (.ethType, 0x0800),
   (.ipTos, 0x00),
   (.ipId, 0xD431),
   (.ipFlags, 0b000),
   (.ipFrag, 0x0000),
   (.ipTtl, 0x40),
   (.ipProto, 0x00),
   (.ipSrc, 0xC0A80164),
   (.ipDst, 0xC0A80101)] ++
  [(.ipVerIhl, 0x00),
   (.ipTotlen, 0x0000),
   (.ipCsum, 0x0000),
   (.tcpSport, 0x3039),
   (.tcpDport, 0x0050),
   (.tcpSeq, 0x00000000),
   (.tcpAck, 0x00000000),
   (.tcpFlags, 0x002),
   (.tcpWin, 0xFFFF),
   (.tcpUrg, 0x0000),
   (.tcpHlen, 0x00)] ++
  [(.tcpCsum, 0x0000),
   (.udpSport, 0x3039),
   (.udpDport, 0x0035),
   (.udpLen, 0x0000),
   (.udpCsum, 0x0000),
   (.icmpType, 0x08),
   (.icmpCode, 0x00),
   (.icmpId, 0x0001),
   (.icmpSeq, 0x0001),
   (.icmpCsum, 0x0000)]

/-- The Ethernet header of 30_encoding.md R110 with an EtherType. -/
def ethHeader (rs : Regs) (etype : Half) : Bytes :=
  be16 rs.ethDstHi ++ be32 rs.ethDstLo ++ be16 rs.ethSrcHi ++ be32 rs.ethSrcLo ++ be16 etype

/-- The IPv4 header of R111 to R113: flags in [15:13] and fragment offset in [12:0] of bytes 6..7. -/
def ipv4Header (rs : Regs) (proto : Byte) (totlen csum : Half) : Bytes :=
  [0x45, rs.ipTos] ++ be16 totlen ++ be16 rs.ipId ++ be16 (rs.ipFlags ++ rs.ipFrag) ++ [rs.ipTtl, proto]
    ++ be16 csum ++ be32 rs.ipSrc ++ be32 rs.ipDst

/-- The TCP header of R114, R115: data offset 5 in [15:12], 0 in [11:9] and the flags in [8:0] of bytes 12..13. -/
def tcpHeaderBytes (rs : Regs) (csum : Half) : Bytes :=
  be16 rs.tcpSport ++ be16 rs.tcpDport ++ be32 rs.tcpSeq ++ be32 rs.tcpAck
    ++ be16 ((5 : BitVec 4) ++ (0 : BitVec 3) ++ rs.tcpFlags) ++ be16 rs.tcpWin ++ be16 csum ++ be16 rs.tcpUrg

/-- The UDP header of R116. -/
def udpHeaderBytes (rs : Regs) (len csum : Half) : Bytes :=
  be16 rs.udpSport ++ be16 rs.udpDport ++ be16 len ++ be16 csum

/-- The ICMP header of R117. -/
def icmpHeaderBytes (rs : Regs) (csum : Half) : Bytes :=
  [rs.icmpType, rs.icmpCode] ++ be16 csum ++ be16 rs.icmpId ++ be16 rs.icmpSeq

/-- The pseudo-header of R118. -/
def pseudoHeader (rs : Regs) (proto : Byte) (len : Half) : Bytes :=
  be32 rs.ipSrc ++ be32 rs.ipDst ++ [0, proto] ++ be16 len

/-- The checksum of an IPv4 header (41_encode.md R172). -/
def ipv4Csum (rs : Regs) (proto : Byte) (totlen : Half) : Half := inetCsum (ipv4Header rs proto totlen 0)

/-- The checksum of a TCP segment (R176). -/
def tcpSegmentCsum (rs : Regs) (pay : Bytes) : Half :=
  inetCsum (pseudoHeader rs 6 (BitVec.ofNat 16 (20 + pay.length)) ++ tcpHeaderBytes rs 0 ++ pay)

/-- The checksum of a UDP datagram before the zero rule (R179). -/
def udpRawCsum (rs : Regs) (pay : Bytes) : Half :=
  inetCsum (pseudoHeader rs 17 (BitVec.ofNat 16 (8 + pay.length))
    ++ udpHeaderBytes rs (BitVec.ofNat 16 (8 + pay.length)) 0 ++ pay)

/-- The checksum of a UDP datagram (R180): a result of 0x0000 is delivered as 0xFFFF. -/
def udpDatagramCsum (rs : Regs) (pay : Bytes) : Half :=
  if udpRawCsum rs pay = 0 then 0xFFFF else udpRawCsum rs pay

/-- The checksum of an ICMP message (R182). -/
def icmpMessageCsum (rs : Regs) (pay : Bytes) : Half := inetCsum (icmpHeaderBytes rs 0 ++ pay)

/-- The TCP segment `f_TCP` builds (R175). -/
def tcpSegment (rs : Regs) (pay : Bytes) : Bytes := tcpHeaderBytes rs (tcpSegmentCsum rs pay) ++ pay

/-- The UDP datagram `f_UDP` builds (R178). -/
def udpDatagram (rs : Regs) (pay : Bytes) : Bytes :=
  udpHeaderBytes rs (BitVec.ofNat 16 (8 + pay.length)) (udpDatagramCsum rs pay) ++ pay

/-- The ICMP message `f_ICMP` builds (R182). -/
def icmpMessage (rs : Regs) (pay : Bytes) : Bytes := icmpHeaderBytes rs (icmpMessageCsum rs pay) ++ pay

/-- The transport bytes `t` of BUILD for a selection: header and payload (43_builder.md R240, R241). -/
def transportBytes (rs : Regs) (t : TSel) (pay : Bytes) : Bytes :=
  match t with
  | .none => []
  | .icmp => icmpMessage rs pay
  | .tcp => tcpSegment rs pay
  | .udp => udpDatagram rs pay

/-- The IPv4 packet `f_IPV4` builds (R172). -/
def ipv4Packet (rs : Regs) (proto : Byte) (pay : Bytes) : Bytes :=
  ipv4Header rs proto (BitVec.ofNat 16 (20 + pay.length))
    (ipv4Csum rs proto (BitVec.ofNat 16 (20 + pay.length))) ++ pay

/-- The frame BUILD makes around a transport's bytes (43_builder.md R240). -/
def frame (rs : Regs) (proto : Byte) (transport : Bytes) : Bytes :=
  ethHeader rs 0x0800 ++ ipv4Packet rs proto transport

/-- The registers BUILD writes besides the transport's own, for a transport of these bytes (R240). -/
def builtRegs (rs : Regs) (proto : Byte) (transport : Bytes) : Regs :=
  { rs with ipVerIhl := 0x45, ipTotlen := BitVec.ofNat 16 (20 + transport.length),
            ipCsum := ipv4Csum rs proto (BitVec.ofNat 16 (20 + transport.length)),
            outLen := BitVec.ofNat 32 (34 + transport.length) }

/-- The input of a decode is the output of an encode: `u` holds, as its input region, the OUT_LEN bytes `t`
holds at DST_BUF offset 0 (41_encode.md R185). -/
def CopiedBack (t u : State) : Prop :=
  u.params = t.params ∧ u.regs.inLen = t.regs.outLen ∧ u.regs.inOff.toNat + u.regs.inLen.toNat ≤ u.params.bufBytes ∧
    ∀ k, k < t.regs.outLen.toNat → u.src.byteAt (u.regs.inOff.toNat + k) = t.dst.byteAt k

/-- The payload region of `v` holds the bytes the payload region of `s` holds. -/
def SamePayload (s v : State) : Prop :=
  v.regs.payLen = s.regs.payLen ∧ ∀ k, k < s.regs.payLen.toNat →
    v.src.byteAt (v.regs.payOff.toNat + k) = s.src.byteAt (s.regs.payOff.toNat + k)

/-- The host copies PAY_OFF to IN_OFF and PAY_LEN to IN_LEN, to decode the next layer in place (42_decode.md R212). -/
def descend (s : State) : State :=
  { s with regs := { s.regs with inOff := s.regs.payOff, inLen := s.regs.payLen } }

/-- The decode command of a transport, with its field registers and the result registers an encoding of it
writes (43_builder.md R242). -/
def transportDecode : TSel → Option (Instr × List Reg × List Reg)
  | .none => none
  | .tcp => some (.decTcp, [.tcpSport, .tcpDport, .tcpSeq, .tcpAck, .tcpFlags, .tcpWin, .tcpUrg], [.tcpHlen, .tcpCsum])
  | .udp => some (.decUdp, [.udpSport, .udpDport], [.udpLen, .udpCsum])
  | .icmp => some (.decIcmp, [.icmpType, .icmpCode, .icmpId, .icmpSeq], [.icmpCsum])

/-- The table of R98: match, mask and OP of each command. -/
def opcodeMap : List (Word × Word × Byte) :=
  [(0x00000001, 0xFFFFFFFF, 0x01), (0x00000002, 0xFFFFFEFF, 0x02), (0x00000003, 0xFF00FFFF, 0x03),
   (0x00000004, 0xFFFFFDFF, 0x04), (0x00000010, 0xFFFFFFFF, 0x10), (0x00000011, 0xFFFFFFFF, 0x11),
   (0x00000012, 0xFFFFFFFF, 0x12), (0x00000013, 0xFFFFFFFF, 0x13), (0x00000014, 0xFFFFFFFF, 0x14),
   (0x00000020, 0xFFFFFFFF, 0x20), (0x00000021, 0xFFFFFFFF, 0x21), (0x00000022, 0xFFFFFFFF, 0x22),
   (0x00000023, 0xFFFFFFFF, 0x23), (0x00000024, 0xFFFFFFFF, 0x24), (0x00000030, 0xFFFFFFFF, 0x30),
   (0x00000031, 0xFFFFFFFF, 0x31), (0x00000032, 0xFFFFFFFF, 0x32), (0x00000040, 0xFFFFFFFF, 0x40),
   (0x00000041, 0xFFFFFFFF, 0x41)]

/-- The registers a command may write (the "Registers written" of its rule; STATUS and TSEL apart). -/
def mayWrite (t : TSel) : Instr → List Reg
  | .csumClear | .csumAdd _ | .csumPseudo _ => [.csumAcc]
  | .csumFinal _ => [.csumRes]
  | .encEth => [.outLen]
  | .encIpv4 => [.ipVerIhl, .ipTotlen, .ipCsum, .outLen]
  | .encTcp => [.tcpHlen, .tcpCsum, .outLen]
  | .encUdp => [.udpLen, .udpCsum, .outLen]
  | .encIcmp => [.icmpCsum, .outLen]
  | .decEth => [.ethDstHi, .ethDstLo, .ethSrcHi, .ethSrcLo, .ethType, .payOff, .payLen]
  | .decIpv4 => [.ipVerIhl, .ipTos, .ipTotlen, .ipId, .ipFlags, .ipFrag, .ipTtl, .ipProto, .ipCsum, .ipSrc,
      .ipDst, .payOff, .payLen]
  | .decTcp => [.tcpSport, .tcpDport, .tcpSeq, .tcpAck, .tcpHlen, .tcpFlags, .tcpWin, .tcpCsum, .tcpUrg,
      .payOff, .payLen]
  | .decUdp => [.udpSport, .udpDport, .udpLen, .udpCsum, .payOff, .payLen]
  | .decIcmp => [.icmpType, .icmpCode, .icmpCsum, .icmpId, .icmpSeq, .payOff, .payLen]
  | .selIcmp | .selTcp | .selUdp => []
  | .build => [.ipVerIhl, .ipTotlen, .ipCsum, .outLen] ++ (match t with
      | .none => []
      | .icmp => [.icmpCsum]
      | .tcp => [.tcpHlen, .tcpCsum]
      | .udp => [.udpLen, .udpCsum])
  | .loadDefaults => layerFieldRegs ++ [.payOff, .payLen]

/-- The checksum commands (40_checksum.md). -/
def isChecksum : Instr → Bool
  | .csumClear | .csumAdd _ | .csumPseudo _ | .csumFinal _ => true
  | _ => false

/-- The encode commands with the length of the header each writes, and whether a 16-bit length bounds it
(41_encode.md R171 to R183). -/
def encoders : List (Instr × Nat × Bool) :=
  [(.encEth, 14, false), (.encIpv4, 20, true), (.encTcp, 20, true), (.encUdp, 8, true), (.encIcmp, 8, false)]

/-- The decode commands with the minimum header size of each (60_exceptions.md R262). -/
def decoders : List (Instr × Nat) :=
  [(.decEth, 14), (.decIpv4, 20), (.decTcp, 20), (.decUdp, 8), (.decIcmp, 8)]

/-- What each encode command checks of IP_PROTO: only ENC_IPV4 does (R170, R173). -/
def protoAccepted (i : Instr) (s : State) : Prop :=
  i = .encIpv4 → s.regs.ipProto = 1 ∨ s.regs.ipProto = 6 ∨ s.regs.ipProto = 17

end Sys2Proof.Claims

open Sys2Proof Sys2Proof.Machine Sys2Proof.Claims

/-! ## Command words (30_encoding.md) -/

/-- R97, R98: decoding the word of a command gives the command back, every operand value included. -/
def Obligations.DecodeOfEncodeIsTheCommand : Prop := ∀ i : Instr, decode (encode i) = .ok i

/-- R98: a word that decodes has one meaning, and the encoder writes that word. -/
def Obligations.EncodeOfDecodedIsTheWord : Prop := ∀ (w : Word) (i : Instr), decode w = .ok i → encode i = w

/-- R97: a word is legal exactly when the decoder has a command for it, and an illegal word raises
ILLEGAL_COMMAND and nothing else of the command happens. -/
def Obligations.LegalWordsAreTheCommands : Prop :=
  ∀ w : Word, (legal w = true ↔ ∃ i, decode w = .ok i) ∧
    (legal w = false → ∀ s : State,
      runCommand w s = .next { s with errcode := some .illegalCommand, errSticky := true }) ∧
    ∀ row ∈ opcodeMap, w &&& row.2.1 = row.1 ↔ ∃ i, decode w = .ok i ∧ opOf i = row.2.2

/-- R95, R98, and the legality rows of 95_test_vectors.md 2.5: some words by hand. -/
def Obligations.SampleWordsDecode : Prop :=
  decode 0x00000102 = .ok (.csumAdd .dst) ∧ decode 0x00110003 = .ok (.csumPseudo 17) ∧
  decode 0x00000204 = .ok (.csumFinal true) ∧ decode 0x00000012 = .ok .encTcp ∧
  decode 0x00000021 = .ok .decIpv4 ∧ decode 0x00000041 = .ok .loadDefaults ∧
  decode 0x00000140 = .error (.reservedBits 0x00000140) ∧ decode 0x00000042 = .error (.unassignedOp 0x42)

/-! ## Steps and host accesses (10_state.md, 20_memory.md, 70_reset_and_hazards.md) -/

/-- R26, R266: a CMD write of a word that decodes runs exactly that command, on the state in which the host
operation is done with. -/
def Obligations.CmdWriteRunsDecodedCommand : Prop :=
  ∀ (s : State) (w : Word) (i : Instr) (rest : List HostOp), decode w = .ok i →
    s.Issues ⟨s.params.base, 32, .write w⟩ rest → step s = exec i { s with pending := rest }

/-- R26, R268: a CMD write of an illegal word changes STATUS alone. -/
def Obligations.IllegalCmdWriteChangesOnlyStatus : Prop :=
  ∀ (s : State) (w : Word) (rest : List HostOp), legal w = false →
    s.Issues ⟨s.params.base, 32, .write w⟩ rest →
      step s = .next { s with pending := rest, errcode := some .illegalCommand, errSticky := true }

/-- R21, R22, R25, R73: an aligned 32-bit write stores the field bits of a RW register, changes nothing of a RO
register, and either way leaves every other register and everything else as it was; a 32-bit read of a
register returns its field, zero above its width. -/
def Obligations.RegisterAccessByKind : Prop :=
  ∀ row ∈ registerTable, ∀ (s : State) (v : Word) (rest : List HostOp),
    (s.Issues ⟨s.params.base + row.1, 32, .read⟩ rest →
      step s = .next { s with pending := rest, reads := s.reads ++ [s.csr row.2.1] } ∧
        (s.csr row.2.1).toNat < 2 ^ row.2.2.2) ∧
    (s.Issues ⟨s.params.base + row.1, 32, .write v⟩ rest →
      (row.2.2.1 = .ro → step s = .next { s with pending := rest }) ∧
      (row.2.2.1 = .rw → ∃ rs, step s = .next { s with pending := rest, regs := rs } ∧
        (rs.get row.2.1).toNat = v.toNat % 2 ^ row.2.2.2 ∧
        ∀ r, r ≠ row.2.1 → rs.get r = s.csr r))

/-- R26, R27, R28: CMD reads 0 and a read of it runs nothing; STATUS reads ERRCODE in [3:0], ERR_STICKY in
[8] and zeros elsewhere; a write to STATUS clears ERR_STICKY when bit 8 is set and does nothing else;
TSEL reads 0, 1, 6 or 17 and ignores writes. -/
def Obligations.ControlRegisterAccess : Prop :=
  ∀ (s : State) (v : Word) (rest : List HostOp),
    (s.Issues ⟨s.params.base, 32, .read⟩ rest →
      step s = .next { s with pending := rest, reads := s.reads ++ [0] }) ∧
    (s.Issues ⟨s.params.base + 4, 32, .read⟩ rest →
      ∃ x, step s = .next { s with pending := rest, reads := s.reads ++ [x] } ∧
        x.toNat = (match s.errcode with
          | none => 0
          | some .truncatedInput => 1
          | some .unselectedProtocol => 2
          | some .unknownProtocol => 3
          | some .lengthOverflow => 4
          | some .badRegion => 5
          | some .illegalCommand => 6) + (if s.errSticky then 0x100 else 0)) ∧
    (s.Issues ⟨s.params.base + 4, 32, .write v⟩ rest →
      step s = .next { s with pending := rest, errSticky := s.errSticky && !v.getLsbD 8 }) ∧
    (s.Issues ⟨s.params.base + 8, 32, .read⟩ rest →
      step s = .next { s with pending := rest, reads := s.reads ++ [match s.tsel with
        | .none => 0
        | .icmp => 1
        | .tcp => 6
        | .udp => 17] }) ∧
    (s.Issues ⟨s.params.base + 8, 32, .write v⟩ rest → step s = .next { s with pending := rest })

/-- R72, R76: the 8-bit and the 32-bit accesses to a buffer. A read gives the bytes the buffer holds, the
byte at the lowest offset in the top bits; a write stores exactly its bytes. -/
def Obligations.BufferAccess : Prop :=
  ∀ (s : State) (buf : Buf) (off : Nat) (v : Word) (bs : Bytes) (rest : List HostOp), s.params.Ok →
    (off + 1 ≤ s.params.bufBytes →
      (s.Issues ⟨s.params.base + bufferBase buf + off, 8, .read⟩ rest → bs.length = 1 → s.Holds buf off bs →
        step s = .next { s with pending := rest, reads := s.reads ++ [(rd8 bs 0).setWidth 32] }) ∧
      (s.Issues ⟨s.params.base + bufferBase buf + off, 8, .write v⟩ rest →
        ∃ t, step s = .next t ∧ t = { s with pending := rest, src := t.src, dst := t.dst } ∧
          Stored (s.buffer buf) (t.buffer buf) off [v.extractLsb' 0 8] ∧
          ∀ other, other ≠ buf → t.buffer other = s.buffer other)) ∧
    (off + 4 ≤ s.params.bufBytes → off % 4 = 0 →
      (s.Issues ⟨s.params.base + bufferBase buf + off, 32, .read⟩ rest → bs.length = 4 → s.Holds buf off bs →
        ∃ x, step s = .next { s with pending := rest, reads := s.reads ++ [x] } ∧ be32 x = bs) ∧
      (s.Issues ⟨s.params.base + bufferBase buf + off, 32, .write v⟩ rest →
        ∃ t, step s = .next t ∧ t = { s with pending := rest, src := t.src, dst := t.dst } ∧
          Stored (s.buffer buf) (t.buffer buf) off (be32 v) ∧
          ∀ other, other ≠ buf → t.buffer other = s.buffer other))

/-- R74: the accesses that get a bus error: an unmapped offset, an unlisted register offset, a buffer offset at
or above BUF_BYTES, a narrow access to the register file, a 16-bit access anywhere, a 32-bit access at no
multiple of 4, any access of another width. -/
def Obligations.BusErrors : Prop :=
  ∀ (s : State) (off width : Nat) (op : BusOp) (rest : List HostOp), off < 0x80000 →
    s.Issues ⟨s.params.base + off, width, op⟩ rest →
    (0x1000 ≤ off ∧ off < 0x20000 ∨ 0x60000 ≤ off ∨
      0x20000 + s.params.bufBytes ≤ off ∧ off < 0x40000 ∨ 0x40000 + s.params.bufBytes ≤ off ∨
      off < 0x1000 ∧ off ∉ listedOffsets ∨ off < 0x1000 ∧ width ≠ 32 ∨ width = 16 ∨
      width = 32 ∧ off % 4 ≠ 0 ∨ width ≠ 8 ∧ width ≠ 16 ∧ width ≠ 32) →
    step s = .fault (.busError ⟨s.params.base + off, width, op⟩)

/-- R78: a host read that includes a byte with no value is a fault that names such a byte. -/
def Obligations.UnwrittenByteReadFaults : Prop :=
  ∀ (s : State) (buf : Buf) (off : Nat) (rest : List HostOp), s.params.Ok →
    (off + 1 ≤ s.params.bufBytes → s.Lacks buf off 1 →
      s.Issues ⟨s.params.base + bufferBase buf + off, 8, .read⟩ rest → FaultsInRegion (step s) s buf off 1) ∧
    (off + 4 ≤ s.params.bufBytes → off % 4 = 0 → s.Lacks buf off 4 →
      s.Issues ⟨s.params.base + bufferBase buf + off, 32, .read⟩ rest → FaultsInRegion (step s) s buf off 4)

/-- R81: no read has a side effect: a read that answers changes nothing of the block. -/
def Obligations.ReadsHaveNoSideEffect : Prop :=
  ∀ (s t : State) (addr width : Nat) (rest : List HostOp),
    s.pending = .access ⟨addr, width, .read⟩ :: rest → step s = .next t →
      ∃ v, t = { s with pending := rest, reads := s.reads ++ [v] }

/-- R292: every access to the window is refused while reset is asserted. -/
def Obligations.AccessInResetRefused : Prop :=
  ∀ (s : State) (a : Access) (rest : List HostOp), s.resetIn = .asserted → s.pending = .access a :: rest →
    s.params.base ≤ a.addr → a.addr < s.params.base + 0x80000 → step s = .refused (.inReset a)

/-- R291: after release of reset every register holds its reset value of R25, TSEL is none, STATUS is 0,
SRC_BUF holds DEFAULT_PAYLOAD at offset 0 and no other byte of either buffer holds a value, whatever the
state before and whatever the parameters. -/
def Obligations.ReleaseOfResetLeavesResetState : Prop :=
  ∀ (s : State) (rest : List HostOp), s.resetIn = .asserted → s.pending = .resetRelease :: rest →
    ∃ t, step s = .next t ∧ (∀ row ∈ resetTable, t.csr row.1 = row.2) ∧
      t.csr .payLen = BitVec.ofNat 32 s.params.defaultPayload.length ∧ t.statusWord = 0 ∧
      t.errcode = none ∧ t.errSticky = false ∧ t.tsel = .none ∧ t.resetIn = .released ∧
      (∀ k, t.src.byteAt k = s.params.defaultPayload[k]?) ∧ (∀ k, t.dst.byteAt k = none) ∧
      t.params = s.params ∧ t.pending = rest ∧ t.reads = s.reads

/-! ## The checksum (40_checksum.md) -/

/-- R12: the wire primitives read back what they wrote, at any place of a byte string. -/
def Obligations.WirePrimitivesReadBack : Prop :=
  ∀ (x y : Bytes) (h : Half) (w : Word),
    rd16 (x ++ be16 h ++ y) x.length = h ∧ rd32 (x ++ be32 w ++ y) x.length = w ∧
    (∀ a b : Byte, (rd16 (x ++ [a, b] ++ y) x.length).toNat = a.toNat * 256 + b.toNat)

/-- R150: the accumulator and its fold are the one's-complement sums of R140 to R143, whatever the order of the
words and however they are split into strings of even length. -/
def Obligations.AccumulatorIsOnesComplementSum : Prop :=
  ∀ (acc : Word) (b : Bytes),
    let total := acc.toNat + ((wordsOf b).map BitVec.toNat).sum
    (accBytes acc b).toNat = (if total = 0 then 0 else (total - 1) % (2 ^ 32 - 1) + 1) ∧
    (fold (accBytes acc b)).toNat = (if total = 0 then 0 else (total - 1) % 0xFFFF + 1) ∧
    (∀ b' : Bytes, (wordsOf b').Perm (wordsOf b) → accBytes acc b' = accBytes acc b) ∧
    (∀ x y : Bytes, b = x ++ y → x.length % 2 = 0 → accBytes (accBytes acc x) y = accBytes acc b)

/-- R151: the two checksum values the UDP zero rule tells apart. -/
def Obligations.ChecksumExtremes : Prop :=
  ∀ b : Bytes, (inetCsum b = 0xFFFF ↔ ∀ w ∈ wordsOf b, w = 0) ∧
    (inetCsum b = 0x0000 ↔
      ((wordsOf b).map BitVec.toNat).sum ≠ 0 ∧ ((wordsOf b).map BitVec.toNat).sum % 0xFFFF = 0)

/-- R152: a byte string with its own checksum in place, or 0xFFFF where the checksum is 0, sums to a
checksum of 0. -/
def Obligations.ChecksumInPlaceVerifies : Prop :=
  ∀ (x y : Bytes) (f : Half), x.length % 2 = 0 →
    (f = inetCsum (x ++ be16 0 ++ y) ∨ inetCsum (x ++ be16 0 ++ y) = 0 ∧ f = 0xFFFF) →
      inetCsum (x ++ be16 f ++ y) = 0

/-- R153: strings chain when the first has even length, and the rule's own example of odd length. -/
def Obligations.EvenChunksChain : Prop :=
  (∀ (a : Word) (x y : Bytes), x.length % 2 = 0 → accBytes (accBytes a x) y = accBytes a (x ++ y)) ∧
    accBytes 0 [1, 2, 3] = 0x0402 ∧ accBytes (accBytes 0 [1]) [2, 3] = 0x0303

/-- R146: CSUM_CLEAR. -/
def Obligations.CsumClearMeaning : Prop :=
  ∀ s : State, Completes .csumClear s { s.regs with csumAcc := 0 } ∧ IllegalForms 0x01 s

/-- R147: CSUM_ADD, with its errors in order and the fault of a byte with no value. -/
def Obligations.CsumAddMeaning : Prop :=
  ∀ (s : State) (buf : Buf),
    (s.params.bufBytes < s.regs.csOff.toNat + s.regs.csLen.toNat → Fails (.csumAdd buf) s .badRegion) ∧
    (s.regs.csOff.toNat + s.regs.csLen.toNat ≤ s.params.bufBytes →
      (s.Lacks buf s.regs.csOff.toNat s.regs.csLen.toNat →
        FaultsInRegion (exec (.csumAdd buf) s) s buf s.regs.csOff.toNat s.regs.csLen.toNat) ∧
      (∀ b, b.length = s.regs.csLen.toNat → s.Holds buf s.regs.csOff.toNat b →
        Completes (.csumAdd buf) s { s.regs with csumAcc := accBytes s.regs.csumAcc b })) ∧
    IllegalForms 0x02 s

/-- R148: CSUM_PSEUDO adds the six words the rule names, for every PROTO. -/
def Obligations.CsumPseudoMeaning : Prop :=
  ∀ (s : State) (proto : Byte),
    Completes (.csumPseudo proto) s { s.regs with csumAcc :=
      [s.regs.ipSrc.extractLsb' 16 16, s.regs.ipSrc.extractLsb' 0 16, s.regs.ipDst.extractLsb' 16 16,
        s.regs.ipDst.extractLsb' 0 16, proto.setWidth 16, s.regs.csPlen].foldl add32 s.regs.csumAcc } ∧
    IllegalForms 0x03 s

/-- R149: CSUM_FINAL: CSUM_RES is the complement of the folded accumulator, with ZF the value 0 is delivered
as 0xFFFF, and CSUM_ACC stays. The folded accumulator is given by its value (R143, R150). -/
def Obligations.CsumFinalMeaning : Prop :=
  ∀ (s : State) (zf : Bool),
    (∃ r : Half, Completes (.csumFinal zf) s { s.regs with csumRes := r } ∧
      r.toNat = (if s.regs.csumAcc = 0 then 0xFFFF
        else if s.regs.csumAcc.toNat % 0xFFFF = 0 then (if zf then 0xFFFF else 0)
        else 0xFFFF - s.regs.csumAcc.toNat % 0xFFFF)) ∧
    IllegalForms 0x04 s

/-! ## Encode commands (41_encode.md) -/

/-- R171: ENC_ETH. -/
def Obligations.EncEthMeaning : Prop :=
  ∀ (s : State) (pay : Bytes), s.PayloadIs pay → 14 + pay.length ≤ s.params.bufBytes →
    Emits .encEth s { s.regs with outLen := BitVec.ofNat 32 (14 + pay.length) }
      (ethHeader s.regs s.regs.ethType ++ pay)

/-- R172, R173: ENC_IPV4. -/
def Obligations.EncIpv4Meaning : Prop :=
  ∀ (s : State) (pay : Bytes), s.PayloadIs pay → protoAccepted .encIpv4 s →
    20 + pay.length ≤ 0xFFFF → 20 + pay.length ≤ s.params.bufBytes →
    Emits .encIpv4 s
      { s.regs with ipVerIhl := 0x45, ipTotlen := BitVec.ofNat 16 (20 + pay.length),
                    ipCsum := ipv4Csum s.regs s.regs.ipProto (BitVec.ofNat 16 (20 + pay.length)),
                    outLen := BitVec.ofNat 32 (20 + pay.length) }
      (ipv4Packet s.regs s.regs.ipProto pay)

/-- R175, R176, R177: ENC_TCP. -/
def Obligations.EncTcpMeaning : Prop :=
  ∀ (s : State) (pay : Bytes), s.PayloadIs pay →
    20 + pay.length ≤ 0xFFFF → 20 + pay.length ≤ s.params.bufBytes →
    Emits .encTcp s
      { s.regs with tcpHlen := 0x28, tcpCsum := tcpSegmentCsum s.regs pay,
                    outLen := BitVec.ofNat 32 (20 + pay.length) }
      (tcpSegment s.regs pay)

/-- R178 to R181: ENC_UDP. -/
def Obligations.EncUdpMeaning : Prop :=
  ∀ (s : State) (pay : Bytes), s.PayloadIs pay →
    8 + pay.length ≤ 0xFFFF → 8 + pay.length ≤ s.params.bufBytes →
    Emits .encUdp s
      { s.regs with udpLen := BitVec.ofNat 16 (8 + pay.length), udpCsum := udpDatagramCsum s.regs pay,
                    outLen := BitVec.ofNat 32 (8 + pay.length) }
      (udpDatagram s.regs pay)

/-- R182, R183: ENC_ICMP. -/
def Obligations.EncIcmpMeaning : Prop :=
  ∀ (s : State) (pay : Bytes), s.PayloadIs pay → 8 + pay.length ≤ s.params.bufBytes →
    Emits .encIcmp s
      { s.regs with icmpCsum := icmpMessageCsum s.regs pay, outLen := BitVec.ofNat 32 (8 + pay.length) }
      (icmpMessage s.regs pay)

/-- R170, R271: the errors of the encode commands, in the order of their checks. -/
def Obligations.EncodeErrorsInOrder : Prop :=
  ∀ row ∈ encoders, ∀ s : State,
    (s.params.bufBytes < s.regs.payOff.toNat + s.regs.payLen.toNat → Fails row.1 s .badRegion) ∧
    (s.regs.payOff.toNat + s.regs.payLen.toNat ≤ s.params.bufBytes →
      (¬ protoAccepted row.1 s → Fails row.1 s .unknownProtocol) ∧
      (protoAccepted row.1 s →
        (s.Lacks .src s.regs.payOff.toNat s.regs.payLen.toNat →
          FaultsInRegion (exec row.1 s) s .src s.regs.payOff.toNat s.regs.payLen.toNat) ∧
        (∀ pay, s.PayloadIs pay →
          (row.2.2 = true → 0xFFFF < row.2.1 + pay.length → Fails row.1 s .lengthOverflow) ∧
          ((row.2.2 = true → row.2.1 + pay.length ≤ 0xFFFF) →
            s.params.bufBytes < row.2.1 + pay.length → Fails row.1 s .badRegion))))

/-- R184: every checksum an encode command writes verifies: over the bytes at DST_BUF as written, with the
pseudo-header in front for TCP and UDP, the checksum is 0. -/
def Obligations.EncodedChecksumsVerify : Prop :=
  ∀ (s t : State) (out : Bytes), s.params.Ok → t.Holds .dst 0 out → out.length = t.regs.outLen.toNat →
    t.errcode = none →
    (exec .encIpv4 s = .next t → inetCsum (out.take 20) = 0) ∧
    (exec .encTcp s = .next t → inetCsum (pseudoHeader s.regs 6 (BitVec.ofNat 16 out.length) ++ out) = 0) ∧
    (exec .encUdp s = .next t → inetCsum (pseudoHeader s.regs 17 (BitVec.ofNat 16 out.length) ++ out) = 0) ∧
    (exec .encIcmp s = .next t → inetCsum out = 0)

/-- R180: the UDP checksum ENC_UDP or BUILD writes is never 0x0000: not in UDP_CSUM, and not on the wire, where
DST_BUF holds be16(UDP_CSUM) in the checksum field, bytes 6..7 of the datagram. -/
def Obligations.UdpChecksumNeverZero : Prop :=
  ∀ s t : State, t.errcode = none →
    (exec .encUdp s = .next t → t.regs.udpCsum ≠ 0 ∧ t.Holds .dst 6 (be16 t.regs.udpCsum)) ∧
    (s.tsel = .udp → exec .build s = .next t → t.regs.udpCsum ≠ 0 ∧ t.Holds .dst 40 (be16 t.regs.udpCsum))

/-- R185: encoding, copying the output into an input region and decoding reproduces every field register of the
layer, the result registers the encode wrote, and the payload, for every value and every payload. -/
def Obligations.EncodeThenDecodeReproducesFields : Prop :=
  ∀ s t u : State, s.params.Ok → t.errcode = none → CopiedBack t u →
    (exec .encEth s = .next t → ∃ v, exec .decEth u = .next v ∧ v.errcode = none ∧ SamePayload s v ∧
      ∀ r ∈ [Reg.ethDstHi, .ethDstLo, .ethSrcHi, .ethSrcLo, .ethType], v.csr r = s.csr r) ∧
    (exec .encIpv4 s = .next t → ∃ v, exec .decIpv4 u = .next v ∧ v.errcode = none ∧ SamePayload s v ∧
      (∀ r ∈ [Reg.ipTos, .ipId, .ipFlags, .ipFrag, .ipTtl, .ipProto, .ipSrc, .ipDst], v.csr r = s.csr r) ∧
      ∀ r ∈ [Reg.ipVerIhl, .ipTotlen, .ipCsum], v.csr r = t.csr r) ∧
    (exec .encTcp s = .next t → ∃ v, exec .decTcp u = .next v ∧ v.errcode = none ∧ SamePayload s v ∧
      (∀ r ∈ [Reg.tcpSport, .tcpDport, .tcpSeq, .tcpAck, .tcpFlags, .tcpWin, .tcpUrg], v.csr r = s.csr r) ∧
      ∀ r ∈ [Reg.tcpHlen, .tcpCsum], v.csr r = t.csr r) ∧
    (exec .encUdp s = .next t → ∃ v, exec .decUdp u = .next v ∧ v.errcode = none ∧ SamePayload s v ∧
      (∀ r ∈ [Reg.udpSport, .udpDport], v.csr r = s.csr r) ∧
      ∀ r ∈ [Reg.udpLen, .udpCsum], v.csr r = t.csr r) ∧
    (exec .encIcmp s = .next t → ∃ v, exec .decIcmp u = .next v ∧ v.errcode = none ∧ SamePayload s v ∧
      (∀ r ∈ [Reg.icmpType, .icmpCode, .icmpId, .icmpSeq], v.csr r = s.csr r) ∧
      ∀ r ∈ [Reg.icmpCsum], v.csr r = t.csr r)

/-! ## Decode commands (42_decode.md) -/

/-- R200, R201: DEC_ETH. -/
def Obligations.DecEthMeaning : Prop :=
  ∀ (s : State) (b : Bytes), s.InputIs b → 14 ≤ b.length →
    Completes .decEth s
      { s.regs with ethDstHi := rd16 b 0, ethDstLo := rd32 b 2, ethSrcHi := rd16 b 6, ethSrcLo := rd32 b 8,
                    ethType := rd16 b 12, payOff := s.regs.inOff + 14, payLen := s.regs.inLen - 14 }

/-- R200, R203, R204: DEC_IPV4, for every IHL, with `k` the smaller of the declared header length and the
input's length. -/
def Obligations.DecIpv4Meaning : Prop :=
  ∀ (s : State) (b : Bytes), s.InputIs b → 20 ≤ b.length →
    let k := min (4 * ((rd8 b 0).extractLsb' 0 4).toNat) b.length
    Completes .decIpv4 s
      { s.regs with ipVerIhl := rd8 b 0, ipTos := rd8 b 1, ipTotlen := rd16 b 2, ipId := rd16 b 4,
                    ipFlags := (rd16 b 6).extractLsb' 13 3, ipFrag := (rd16 b 6).extractLsb' 0 13,
                    ipTtl := rd8 b 8, ipProto := rd8 b 9, ipCsum := rd16 b 10, ipSrc := rd32 b 12,
                    ipDst := rd32 b 16, payOff := s.regs.inOff + BitVec.ofNat 32 k,
                    payLen := s.regs.inLen - BitVec.ofNat 32 k }

/-- R200, R205, R206: DEC_TCP, for every data offset. -/
def Obligations.DecTcpMeaning : Prop :=
  ∀ (s : State) (b : Bytes), s.InputIs b → 20 ≤ b.length →
    let k := min (4 * ((rd16 b 12).extractLsb' 12 4).toNat) b.length
    Completes .decTcp s
      { s.regs with tcpSport := rd16 b 0, tcpDport := rd16 b 2, tcpSeq := rd32 b 4, tcpAck := rd32 b 8,
                    tcpHlen := (rd16 b 12).extractLsb' 9 7, tcpFlags := (rd16 b 12).extractLsb' 0 9,
                    tcpWin := rd16 b 14, tcpCsum := rd16 b 16, tcpUrg := rd16 b 18,
                    payOff := s.regs.inOff + BitVec.ofNat 32 k, payLen := s.regs.inLen - BitVec.ofNat 32 k }

/-- R200, R207: DEC_UDP. -/
def Obligations.DecUdpMeaning : Prop :=
  ∀ (s : State) (b : Bytes), s.InputIs b → 8 ≤ b.length →
    Completes .decUdp s
      { s.regs with udpSport := rd16 b 0, udpDport := rd16 b 2, udpLen := rd16 b 4, udpCsum := rd16 b 6,
                    payOff := s.regs.inOff + 8, payLen := s.regs.inLen - 8 }

/-- R200, R209: DEC_ICMP. -/
def Obligations.DecIcmpMeaning : Prop :=
  ∀ (s : State) (b : Bytes), s.InputIs b → 8 ≤ b.length →
    Completes .decIcmp s
      { s.regs with icmpType := rd8 b 0, icmpCode := rd8 b 1, icmpCsum := rd16 b 2, icmpId := rd16 b 4,
                    icmpSeq := rd16 b 6, payOff := s.regs.inOff + 8, payLen := s.regs.inLen - 8 }

/-- R200, R262, R271: the errors of the decode commands, in the order of their checks. -/
def Obligations.DecodeErrorsInOrder : Prop :=
  ∀ row ∈ decoders, ∀ s : State,
    (s.params.bufBytes < s.regs.inOff.toNat + s.regs.inLen.toNat → Fails row.1 s .badRegion) ∧
    (s.regs.inOff.toNat + s.regs.inLen.toNat ≤ s.params.bufBytes →
      (s.regs.inLen.toNat < row.2 → Fails row.1 s .truncatedInput) ∧
      (row.2 ≤ s.regs.inLen.toNat → s.Lacks .src s.regs.inOff.toNat s.regs.inLen.toNat →
        FaultsInRegion (exec row.1 s) s .src s.regs.inOff.toNat s.regs.inLen.toNat)) ∧
    (row.2 ≤ s.regs.inLen.toNat → ¬ Fails row.1 s .truncatedInput)

/-- R210: decode validates nothing but the input's length: with a readable input of the minimum length, a decode
command succeeds whatever the bytes are. -/
def Obligations.DecodeChecksOnlyTheLength : Prop :=
  ∀ row ∈ decoders, ∀ (s : State) (b : Bytes), s.InputIs b → row.2 ≤ b.length →
    ∃ t, exec row.1 s = .next t ∧ t.errcode = none ∧ t.errSticky = s.errSticky ∧
      t.src = s.src ∧ t.dst = s.dst ∧ t.tsel = s.tsel ∧ ∀ r, r ∉ mayWrite s.tsel row.1 → t.csr r = s.csr r

/-! ## Builder commands (43_builder.md) -/

/-- R230, R231, R232: the select commands. -/
def Obligations.SelectMeaning : Prop :=
  ∀ s : State,
    exec .selIcmp s = .next { s with errcode := none, tsel := .icmp } ∧
    exec .selTcp s = .next { s with errcode := none, tsel := .tcp } ∧
    exec .selUdp s = .next { s with errcode := none, tsel := .udp } ∧
    IllegalForms 0x30 s ∧ IllegalForms 0x31 s ∧ IllegalForms 0x32 s

/-- R240: BUILD with TCP selected. -/
def Obligations.BuildTcpMeaning : Prop :=
  ∀ (s : State) (pay : Bytes), s.tsel = .tcp → s.PayloadIs pay →
    40 + pay.length ≤ 0xFFFF → 54 + pay.length ≤ s.params.bufBytes →
    Emits .build s
      { builtRegs s.regs 6 (tcpSegment s.regs pay) with
        tcpHlen := 0x28, tcpCsum := tcpSegmentCsum s.regs pay }
      (frame s.regs 6 (tcpSegment s.regs pay))

/-- R240: BUILD with UDP selected. -/
def Obligations.BuildUdpMeaning : Prop :=
  ∀ (s : State) (pay : Bytes), s.tsel = .udp → s.PayloadIs pay →
    28 + pay.length ≤ 0xFFFF → 42 + pay.length ≤ s.params.bufBytes →
    Emits .build s
      { builtRegs s.regs 17 (udpDatagram s.regs pay) with
        udpLen := BitVec.ofNat 16 (8 + pay.length), udpCsum := udpDatagramCsum s.regs pay }
      (frame s.regs 17 (udpDatagram s.regs pay))

/-- R240: BUILD with ICMP selected. -/
def Obligations.BuildIcmpMeaning : Prop :=
  ∀ (s : State) (pay : Bytes), s.tsel = .icmp → s.PayloadIs pay →
    28 + pay.length ≤ 0xFFFF → 42 + pay.length ≤ s.params.bufBytes →
    Emits .build s
      { builtRegs s.regs 1 (icmpMessage s.regs pay) with icmpCsum := icmpMessageCsum s.regs pay }
      (frame s.regs 1 (icmpMessage s.regs pay))

/-- R240, R245, R263, R271: the errors of BUILD, in the order of its checks; within the parameters' bounds the
length limit is the last of them. -/
def Obligations.BuildErrorsInOrder : Prop :=
  ∀ s : State,
    (s.tsel = .none → Fails .build s .unselectedProtocol) ∧
    (s.tsel ≠ .none →
      (s.params.bufBytes < s.regs.payOff.toNat + s.regs.payLen.toNat → Fails .build s .badRegion) ∧
      (s.regs.payOff.toNat + s.regs.payLen.toNat ≤ s.params.bufBytes →
        (s.Lacks .src s.regs.payOff.toNat s.regs.payLen.toNat →
          FaultsInRegion (exec .build s) s .src s.regs.payOff.toNat s.regs.payLen.toNat) ∧
        (∀ pay, s.PayloadIs pay →
          (if s.tsel = .tcp then 65495 else 65507) < pay.length → Fails .build s .lengthOverflow)))

/-- R245: with the parameters in their bounds and the payload readable, BUILD raises LENGTH_OVERFLOW exactly when
PAY_LEN exceeds the limit of the selected transport, and otherwise succeeds. -/
def Obligations.BuildLengthLimit : Prop :=
  ∀ (s : State) (pay : Bytes), s.params.Ok → s.tsel ≠ .none → s.PayloadIs pay →
    (Fails .build s .lengthOverflow ↔ (if s.tsel = .tcp then 65495 else 65507) < s.regs.payLen.toNat) ∧
    (s.regs.payLen.toNat ≤ (if s.tsel = .tcp then 65495 else 65507) →
      ∃ t, exec .build s = .next t ∧ t.errcode = none ∧
        t.regs.outLen.toNat = 34 + (if s.tsel = .tcp then 20 else 8) + s.regs.payLen.toNat)

/-- R241: the layout of every built frame: the Ethernet header with EtherType 0x0800; the IPv4 header with version 4
and IHL 5, protocol byte TSEL, total length 20 plus the transport's length and the checksum in IP_CSUM; then the
transport's bytes, its header and the payload; OUT_LEN is 34 plus the transport's length. -/
def Obligations.BuiltFrameLayout : Prop :=
  ∀ (s t : State) (out pay : Bytes), s.params.Ok → exec .build s = .next t → t.errcode = none →
    s.PayloadIs pay → t.Holds .dst 0 out → out.length = t.regs.outLen.toNat →
    let tr := transportBytes s.regs s.tsel pay
    let hl := if s.tsel = .tcp then 20 else 8
    out.length = 14 + 20 + tr.length ∧ out.take 14 = ethHeader s.regs 0x0800 ∧
    (out.drop 14).take 20 = ipv4Header s.regs s.tsel.code t.regs.ipTotlen t.regs.ipCsum ∧
    rd8 out 14 = 0x45 ∧ (rd16 out 16).toNat = 20 + tr.length ∧ rd8 out 23 = s.tsel.code ∧
    out.drop 34 = tr ∧ tr.length = hl + pay.length ∧ out.drop (34 + hl) = pay

/-- R243: configuration persists: a second BUILD writes the same registers and the same bytes. -/
def Obligations.SecondBuildIsTheSame : Prop :=
  ∀ s t : State, exec .build s = .next t →
    ∃ u, exec .build t = .next u ∧ u.regs = t.regs ∧ u.errcode = t.errcode ∧ u.tsel = t.tsel ∧
      u.src = t.src ∧ (∀ k, u.dst.byteAt k = t.dst.byteAt k) ∧
      t.tsel = s.tsel ∧ t.src = s.src ∧ ∀ r, r ∉ mayWrite s.tsel .build → t.csr r = s.csr r

/-- R242: the frame BUILD writes decodes layer by layer into what built it: the Ethernet addresses and EtherType
0x0800, every IPv4 field register with IP_PROTO = TSEL, every field register of the selected transport, the
result registers BUILD wrote, and the original payload. -/
def Obligations.BuiltFrameDecodesLayerByLayer : Prop :=
  ∀ s t u : State, s.params.Ok → exec .build s = .next t → t.errcode = none → CopiedBack t u →
    ∀ d fields results, transportDecode s.tsel = some (d, fields, results) →
      ∃ v1 v2 v3, exec .decEth u = .next v1 ∧ exec .decIpv4 (descend v1) = .next v2 ∧
        exec d (descend v2) = .next v3 ∧ v3.errcode = none ∧ SamePayload s v3 ∧
        (∀ r ∈ [Reg.ethDstHi, .ethDstLo, .ethSrcHi, .ethSrcLo, .ipTos, .ipId, .ipFlags, .ipFrag, .ipTtl, .ipSrc,
          .ipDst] ++ fields, v3.csr r = s.csr r) ∧
        v3.regs.ethType = 0x0800 ∧ v3.regs.ipProto = s.tsel.code ∧
        ∀ r ∈ [Reg.ipVerIhl, .ipTotlen, .ipCsum] ++ results, v3.csr r = t.csr r

/-- R251: LOAD_DEFAULTS. -/
def Obligations.LoadDefaultsMeaning : Prop :=
  ∀ s : State,
    (∃ m, exec .loadDefaults s = .next { s with
        errcode := none, tsel := .none, src := m,
        regs := { s.regs with
          ethDstHi := 0xFFFF, ethDstLo := 0xFFFFFFFF, ethSrcHi := 0x0011, ethSrcLo := 0x22334455, ethType := 0x0800,
          ipTos := 0x00, ipId := 0xD431, ipFlags := 0b000, ipFrag := 0x0000, ipTtl := 0x40,
          ipProto := 0x00, ipSrc := 0xC0A80164, ipDst := 0xC0A80101, tcpSport := 0x3039, tcpDport := 0x0050,
          tcpSeq := 0x00000000, tcpAck := 0x00000000, tcpFlags := 0x002, tcpWin := 0xFFFF, tcpUrg := 0x0000,
          udpSport := 0x3039, udpDport := 0x0035, icmpType := 0x08, icmpCode := 0x00, icmpId := 0x0001,
          icmpSeq := 0x0001,
          payOff := 0, payLen := BitVec.ofNat 32 s.params.defaultPayload.length } } ∧
      Stored s.src m 0 s.params.defaultPayload) ∧
    IllegalForms 0x41 s

/-- R252: after reset or LOAD_DEFAULTS, one select command and BUILD succeed for every transport; with an empty
default payload the frames are those the rule prints. -/
def Obligations.DefaultsBuildUnderEverySelection : Prop :=
  ∀ (p : Params) (s : State), p.Ok →
    (s = State.resetWith p ∨ ∃ s0, s0.params = p ∧ exec .loadDefaults s0 = .next s) →
    ∀ row ∈ [((Instr.selTcp, 54) : Instr × Nat), (.selUdp, 42), (.selIcmp, 42)],
      ∃ t u, exec row.1 s = .next t ∧ exec .build t = .next u ∧ u.errcode = none ∧
        u.regs.outLen.toNat = row.2 + p.defaultPayload.length ∧
        (p.defaultPayload = [] →
          (row.1 = .selTcp → u.Holds .dst 0
            [0xff, 0xff, 0xff, 0xff, 0xff, 0xff, 0x00, 0x11, 0x22, 0x33, 0x44, 0x55, 0x08, 0x00,
             0x45, 0x00, 0x00, 0x28, 0xd4, 0x31, 0x00, 0x00, 0x40, 0x06, 0x22, 0xe9, 0xc0, 0xa8, 0x01, 0x64,
             0xc0, 0xa8, 0x01, 0x01, 0x30, 0x39, 0x00, 0x50, 0x00, 0x00, 0x00, 0x00, 0x00, 0x00, 0x00, 0x00,
             0x50, 0x02, 0xff, 0xff, 0xfb, 0xa3, 0x00, 0x00]) ∧
          (row.1 = .selUdp → u.Holds .dst 0
            [0xff, 0xff, 0xff, 0xff, 0xff, 0xff, 0x00, 0x11, 0x22, 0x33, 0x44, 0x55, 0x08, 0x00,
             0x45, 0x00, 0x00, 0x1c, 0xd4, 0x31, 0x00, 0x00, 0x40, 0x11, 0x22, 0xea, 0xc0, 0xa8, 0x01, 0x64,
             0xc0, 0xa8, 0x01, 0x01, 0x30, 0x39, 0x00, 0x35, 0x00, 0x08, 0x4b, 0xba]) ∧
          (row.1 = .selIcmp → u.Holds .dst 0
            [0xff, 0xff, 0xff, 0xff, 0xff, 0xff, 0x00, 0x11, 0x22, 0x33, 0x44, 0x55, 0x08, 0x00,
             0x45, 0x00, 0x00, 0x1c, 0xd4, 0x31, 0x00, 0x00, 0x40, 0x01, 0x22, 0xfa, 0xc0, 0xa8, 0x01, 0x64,
             0xc0, 0xa8, 0x01, 0x01, 0x08, 0x00, 0xf7, 0xfd, 0x00, 0x01, 0x00, 0x01]))

/-! ## Rules of the whole machine -/

/-- R266, R268: the ways a command word can end. A word that is not legal changes STATUS alone, with
ILLEGAL_COMMAND. Every word ends with ERRCODE 0 and ERR_STICKY as before, in the next state of the command it
decodes to, or changes STATUS alone, or meets a byte with no value (R78). Which outputs a success writes is stated
by each command's own meaning. -/
def Obligations.CommandIsAllOrNothing : Prop :=
  ∀ (s : State) (w : Word),
    (legal w = false → runCommand w s = .next { s with errcode := some .illegalCommand, errSticky := true }) ∧
    ((∃ i t, decode w = .ok i ∧ exec i s = .next t ∧ runCommand w s = .next t ∧ t.errcode = none ∧
        t.errSticky = s.errSticky) ∨
     (∃ e, runCommand w s = .next { s with errcode := some e, errSticky := true }) ∨
     (∃ buf k, runCommand w s = .fault (.noValue buf k) ∧ (s.buffer buf).byteAt k = none))

/-- R54, R56, R57, R58, R29, R210 and the "Registers written" of every command's rule: a command leaves every
other register as it was, and the reset input, the parameters and the host's side too. -/
def Obligations.CommandWritesOnlyItsRegisters : Prop :=
  ∀ (i : Instr) (s t : State), exec i s = .next t →
    (∀ r, r ∉ mayWrite s.tsel i → t.csr r = s.csr r) ∧
    t.params = s.params ∧ t.resetIn = s.resetIn ∧ t.pending = s.pending ∧ t.reads = s.reads

/-- R28, R233: of the commands only the selects and LOAD_DEFAULTS write TSEL. -/
def Obligations.OnlySelectAndDefaultsWriteTsel : Prop :=
  ∀ (i : Instr) (s t : State), exec i s = .next t →
    (i ∉ [Instr.selIcmp, .selTcp, .selUdp, .loadDefaults] → t.tsel = s.tsel) ∧
    (i = .selIcmp → t.tsel = .icmp) ∧ (i = .selTcp → t.tsel = .tcp) ∧ (i = .selUdp → t.tsel = .udp) ∧
    (i = .loadDefaults → t.tsel = .none)

/-- R80, R82, R297, R299: of the commands only LOAD_DEFAULTS writes SRC_BUF, only inside the default payload's
bytes, and only the encode commands and BUILD write DST_BUF, only below the new OUT_LEN. -/
def Obligations.CommandBufferWrites : Prop :=
  ∀ (i : Instr) (s t : State), s.params.Ok → exec i s = .next t →
    (i ≠ .loadDefaults → t.src = s.src) ∧
    (∀ k, s.params.defaultPayload.length ≤ k → t.src.byteAt k = s.src.byteAt k) ∧
    (i ∉ [Instr.encEth, .encIpv4, .encTcp, .encUdp, .encIcmp, .build] → t.dst = s.dst) ∧
    (∀ k, t.regs.outLen.toNat ≤ k → t.dst.byteAt k = s.dst.byteAt k)

/-- R27: ERR_STICKY, once set, is cleared only by a host write to STATUS with bit 8 set, or by the release of an
asserted reset. That the assertion of reset alone clears nothing, and that a release of a reset that is not
asserted is no event, is the model's choice (log 4, DEDUCED and DESIGN CHOICE): R27 says "or reset" and R291 gives
the state after release. -/
def Obligations.StickyErrorStays : Prop :=
  ∀ s t : State, s.errSticky = true → step s = .next t → t.errSticky = false →
    (∃ v rest, s.pending = .access ⟨s.params.base + 4, 32, .write v⟩ :: rest ∧ v.getLsbD 8 = true) ∨
    (s.resetIn = .asserted ∧ ∃ rest, s.pending = .resetRelease :: rest)

/-- R57, D44: the encode commands, the decode commands, BUILD, the selects and LOAD_DEFAULTS neither read nor
write CSUM_ACC: on a state with another value there, they do the same and leave that value. -/
def Obligations.AccumulatorUnusedOutsideChecksumCommands : Prop :=
  ∀ (i : Instr) (s : State) (a : Word), isChecksum i = false →
    (∀ t, exec i s = .next t →
      exec i { s with regs := { s.regs with csumAcc := a } } = .next { t with regs := { t.regs with csumAcc := a } }) ∧
    (∀ f, exec i s = .fault f → exec i { s with regs := { s.regs with csumAcc := a } } = .fault f)

/-- R62: no command reads STATUS: on a state with another STATUS a command does the same to everything else,
and leaves the same ERRCODE. -/
def Obligations.NoCommandReadsStatus : Prop :=
  ∀ (i : Instr) (s : State) (e : Option Err) (b : Bool),
    (∀ t, exec i s = .next t → ∃ b', exec i { s with errcode := e, errSticky := b } = .next { t with errSticky := b' }) ∧
    (∀ f, exec i s = .fault f → exec i { s with errcode := e, errSticky := b } = .fault f)

/-- R8, R20, R71, R78: every step keeps the machine's invariant: parameters in their bounds, both buffers
canonical and inside BUF_BYTES. -/
def Obligations.StepKeepsInvariant : Prop := ∀ s t : State, s.Inv → step s = .next t → t.Inv

/-- R29: in a state that meets the invariant, if the OUT_LEN bytes of DST_BUF hold values, they do after every
step: a host that reads OUT_LEN bytes after a success never meets a byte with no value. -/
def Obligations.StepKeepsOutputReadable : Prop :=
  ∀ s t : State, s.Inv → s.OutputHeld → step s = .next t → t.OutputHeld

/-- R291: the state after reset meets both invariants, for all parameters within their bounds. -/
def Obligations.ResetMeetsInvariants : Prop :=
  ∀ p : Params, p.Ok → (State.resetWith p).Inv ∧ (State.resetWith p).OutputHeld
end

