-- ==== Sys2Proof/Laws/State.lean ====
section
/-! SUPPORT. What each update of the state does to each field, and the laws of `csr` and `commit`. -/

namespace Sys2Proof.Machine

open Sys2Proof

section Fields

variable (s : State)

@[simp] theorem State.commit_params (upd : Updates) : (s.commit upd).params = s.params := rfl
@[simp] theorem State.commit_resetIn (upd : Updates) : (s.commit upd).resetIn = s.resetIn := rfl
@[simp] theorem State.commit_errcode (upd : Updates) : (s.commit upd).errcode = s.errcode := rfl
@[simp] theorem State.commit_errSticky (upd : Updates) : (s.commit upd).errSticky = s.errSticky := rfl
@[simp] theorem State.commit_tsel (upd : Updates) : (s.commit upd).tsel = s.tsel := rfl
@[simp] theorem State.commit_regs (upd : Updates) : (s.commit upd).regs = s.regs.commit upd := rfl
@[simp] theorem State.commit_src (upd : Updates) : (s.commit upd).src = s.src := rfl
@[simp] theorem State.commit_dst (upd : Updates) : (s.commit upd).dst = s.dst := rfl
@[simp] theorem State.commit_pending (upd : Updates) : (s.commit upd).pending = s.pending := rfl
@[simp] theorem State.commit_reads (upd : Updates) : (s.commit upd).reads = s.reads := rfl

@[simp] theorem State.raise_params (e : Err) : (s.raise e).params = s.params := rfl
@[simp] theorem State.raise_resetIn (e : Err) : (s.raise e).resetIn = s.resetIn := rfl
@[simp] theorem State.raise_errcode (e : Err) : (s.raise e).errcode = some e := rfl
@[simp] theorem State.raise_errSticky (e : Err) : (s.raise e).errSticky = true := rfl
@[simp] theorem State.raise_tsel (e : Err) : (s.raise e).tsel = s.tsel := rfl
@[simp] theorem State.raise_regs (e : Err) : (s.raise e).regs = s.regs := rfl
@[simp] theorem State.raise_src (e : Err) : (s.raise e).src = s.src := rfl
@[simp] theorem State.raise_dst (e : Err) : (s.raise e).dst = s.dst := rfl
@[simp] theorem State.raise_pending (e : Err) : (s.raise e).pending = s.pending := rfl
@[simp] theorem State.raise_reads (e : Err) : (s.raise e).reads = s.reads := rfl

@[simp] theorem State.succeed_params : (s.succeed).params = s.params := rfl
@[simp] theorem State.succeed_resetIn : (s.succeed).resetIn = s.resetIn := rfl
@[simp] theorem State.succeed_errcode : (s.succeed).errcode = none := rfl
@[simp] theorem State.succeed_errSticky : (s.succeed).errSticky = s.errSticky := rfl
@[simp] theorem State.succeed_tsel : (s.succeed).tsel = s.tsel := rfl
@[simp] theorem State.succeed_regs : (s.succeed).regs = s.regs := rfl
@[simp] theorem State.succeed_src : (s.succeed).src = s.src := rfl
@[simp] theorem State.succeed_dst : (s.succeed).dst = s.dst := rfl
@[simp] theorem State.succeed_pending : (s.succeed).pending = s.pending := rfl
@[simp] theorem State.succeed_reads : (s.succeed).reads = s.reads := rfl

@[simp] theorem State.select_params (t : TSel) : (s.select t).params = s.params := rfl
@[simp] theorem State.select_resetIn (t : TSel) : (s.select t).resetIn = s.resetIn := rfl
@[simp] theorem State.select_errcode (t : TSel) : (s.select t).errcode = s.errcode := rfl
@[simp] theorem State.select_errSticky (t : TSel) : (s.select t).errSticky = s.errSticky := rfl
@[simp] theorem State.select_tsel (t : TSel) : (s.select t).tsel = t := rfl
@[simp] theorem State.select_regs (t : TSel) : (s.select t).regs = s.regs := rfl
@[simp] theorem State.select_src (t : TSel) : (s.select t).src = s.src := rfl
@[simp] theorem State.select_dst (t : TSel) : (s.select t).dst = s.dst := rfl
@[simp] theorem State.select_pending (t : TSel) : (s.select t).pending = s.pending := rfl
@[simp] theorem State.select_reads (t : TSel) : (s.select t).reads = s.reads := rfl

@[simp] theorem State.returned_params (v : Word) : (s.returned v).params = s.params := rfl
@[simp] theorem State.returned_resetIn (v : Word) : (s.returned v).resetIn = s.resetIn := rfl
@[simp] theorem State.returned_errcode (v : Word) : (s.returned v).errcode = s.errcode := rfl
@[simp] theorem State.returned_errSticky (v : Word) : (s.returned v).errSticky = s.errSticky := rfl
@[simp] theorem State.returned_tsel (v : Word) : (s.returned v).tsel = s.tsel := rfl
@[simp] theorem State.returned_regs (v : Word) : (s.returned v).regs = s.regs := rfl
@[simp] theorem State.returned_src (v : Word) : (s.returned v).src = s.src := rfl
@[simp] theorem State.returned_dst (v : Word) : (s.returned v).dst = s.dst := rfl
@[simp] theorem State.returned_pending (v : Word) : (s.returned v).pending = s.pending := rfl
@[simp] theorem State.returned_reads (v : Word) : (s.returned v).reads = s.reads ++ [v] := rfl

@[simp] theorem State.assertReset_params : (s.assertReset).params = s.params := rfl
@[simp] theorem State.assertReset_resetIn : (s.assertReset).resetIn = .asserted := rfl
@[simp] theorem State.assertReset_errcode : (s.assertReset).errcode = s.errcode := rfl
@[simp] theorem State.assertReset_errSticky : (s.assertReset).errSticky = s.errSticky := rfl
@[simp] theorem State.assertReset_tsel : (s.assertReset).tsel = s.tsel := rfl
@[simp] theorem State.assertReset_regs : (s.assertReset).regs = s.regs := rfl
@[simp] theorem State.assertReset_src : (s.assertReset).src = s.src := rfl
@[simp] theorem State.assertReset_dst : (s.assertReset).dst = s.dst := rfl
@[simp] theorem State.assertReset_pending : (s.assertReset).pending = s.pending := rfl
@[simp] theorem State.assertReset_reads : (s.assertReset).reads = s.reads := rfl

@[simp] theorem memWrite_src_params (a : Nat) (bs : Bytes) : (memWrite s .src a bs).params = s.params := rfl
@[simp] theorem memWrite_src_resetIn (a : Nat) (bs : Bytes) : (memWrite s .src a bs).resetIn = s.resetIn := rfl
@[simp] theorem memWrite_src_errcode (a : Nat) (bs : Bytes) : (memWrite s .src a bs).errcode = s.errcode := rfl
@[simp] theorem memWrite_src_errSticky (a : Nat) (bs : Bytes) : (memWrite s .src a bs).errSticky = s.errSticky := rfl
@[simp] theorem memWrite_src_tsel (a : Nat) (bs : Bytes) : (memWrite s .src a bs).tsel = s.tsel := rfl
@[simp] theorem memWrite_src_regs (a : Nat) (bs : Bytes) : (memWrite s .src a bs).regs = s.regs := rfl
@[simp] theorem memWrite_src_src (a : Nat) (bs : Bytes) : (memWrite s .src a bs).src = s.src.writeBytes a bs := rfl
@[simp] theorem memWrite_src_dst (a : Nat) (bs : Bytes) : (memWrite s .src a bs).dst = s.dst := rfl
@[simp] theorem memWrite_src_pending (a : Nat) (bs : Bytes) : (memWrite s .src a bs).pending = s.pending := rfl
@[simp] theorem memWrite_src_reads (a : Nat) (bs : Bytes) : (memWrite s .src a bs).reads = s.reads := rfl

@[simp] theorem memWrite_dst_params (a : Nat) (bs : Bytes) : (memWrite s .dst a bs).params = s.params := rfl
@[simp] theorem memWrite_dst_resetIn (a : Nat) (bs : Bytes) : (memWrite s .dst a bs).resetIn = s.resetIn := rfl
@[simp] theorem memWrite_dst_errcode (a : Nat) (bs : Bytes) : (memWrite s .dst a bs).errcode = s.errcode := rfl
@[simp] theorem memWrite_dst_errSticky (a : Nat) (bs : Bytes) : (memWrite s .dst a bs).errSticky = s.errSticky := rfl
@[simp] theorem memWrite_dst_tsel (a : Nat) (bs : Bytes) : (memWrite s .dst a bs).tsel = s.tsel := rfl
@[simp] theorem memWrite_dst_regs (a : Nat) (bs : Bytes) : (memWrite s .dst a bs).regs = s.regs := rfl
@[simp] theorem memWrite_dst_src (a : Nat) (bs : Bytes) : (memWrite s .dst a bs).src = s.src := rfl
@[simp] theorem memWrite_dst_dst (a : Nat) (bs : Bytes) : (memWrite s .dst a bs).dst = s.dst.writeBytes a bs := rfl
@[simp] theorem memWrite_dst_pending (a : Nat) (bs : Bytes) : (memWrite s .dst a bs).pending = s.pending := rfl
@[simp] theorem memWrite_dst_reads (a : Nat) (bs : Bytes) : (memWrite s .dst a bs).reads = s.reads := rfl

@[simp] theorem State.writeStatus_params (v : Word) : (s.writeStatus v).params = s.params := by
  unfold State.writeStatus; split <;> rfl
@[simp] theorem State.writeStatus_resetIn (v : Word) : (s.writeStatus v).resetIn = s.resetIn := by
  unfold State.writeStatus; split <;> rfl
@[simp] theorem State.writeStatus_errcode (v : Word) : (s.writeStatus v).errcode = s.errcode := by
  unfold State.writeStatus; split <;> rfl
@[simp] theorem State.writeStatus_errSticky (v : Word) : (s.writeStatus v).errSticky = (s.errSticky && !v.getLsbD 8) := by
  unfold State.writeStatus; cases v.getLsbD 8 <;> simp
@[simp] theorem State.writeStatus_tsel (v : Word) : (s.writeStatus v).tsel = s.tsel := by
  unfold State.writeStatus; split <;> rfl
@[simp] theorem State.writeStatus_regs (v : Word) : (s.writeStatus v).regs = s.regs := by
  unfold State.writeStatus; split <;> rfl
@[simp] theorem State.writeStatus_src (v : Word) : (s.writeStatus v).src = s.src := by
  unfold State.writeStatus; split <;> rfl
@[simp] theorem State.writeStatus_dst (v : Word) : (s.writeStatus v).dst = s.dst := by
  unfold State.writeStatus; split <;> rfl
@[simp] theorem State.writeStatus_pending (v : Word) : (s.writeStatus v).pending = s.pending := by
  unfold State.writeStatus; split <;> rfl
@[simp] theorem State.writeStatus_reads (v : Word) : (s.writeStatus v).reads = s.reads := by
  unfold State.writeStatus; split <;> rfl

@[simp] theorem State.releaseReset_params : s.releaseReset.params = s.params := by
  unfold State.releaseReset; split <;> rfl
@[simp] theorem State.releaseReset_pending : s.releaseReset.pending = s.pending := by
  unfold State.releaseReset; split <;> rfl
@[simp] theorem State.releaseReset_reads : s.releaseReset.reads = s.reads := by
  unfold State.releaseReset; split <;> rfl
@[simp] theorem State.releaseReset_resetIn : s.releaseReset.resetIn = .released := by
  unfold State.releaseReset; split <;> simp_all [State.resetWith]

@[simp] theorem State.buffer_src : s.buffer .src = s.src := rfl
@[simp] theorem State.buffer_dst : s.buffer .dst = s.dst := rfl
@[simp] theorem State.commit_buffer (upd : Updates) (buf : Buf) : (s.commit upd).buffer buf = s.buffer buf := by
  cases buf <;> rfl

@[simp] theorem State.resetWith_params (p : Params) : (State.resetWith p).params = p := rfl
@[simp] theorem State.resetWith_resetIn (p : Params) : (State.resetWith p).resetIn = .released := rfl
@[simp] theorem State.resetWith_errcode (p : Params) : (State.resetWith p).errcode = none := rfl
@[simp] theorem State.resetWith_errSticky (p : Params) : (State.resetWith p).errSticky = false := rfl
@[simp] theorem State.resetWith_tsel (p : Params) : (State.resetWith p).tsel = .none := rfl
@[simp] theorem State.resetWith_regs (p : Params) : (State.resetWith p).regs = Regs.reset p.defaultPayload.length := rfl
@[simp] theorem State.resetWith_src (p : Params) : (State.resetWith p).src = Memory.cells 0 p.defaultPayload := rfl
@[simp] theorem State.resetWith_dst (p : Params) : (State.resetWith p).dst = [] := rfl
@[simp] theorem State.resetWith_pending (p : Params) : (State.resetWith p).pending = [] := rfl
@[simp] theorem State.resetWith_reads (p : Params) : (State.resetWith p).reads = [] := rfl

end Fields

section Registers

/-- A value cut to a register's field bits, as the register then reads (R21). -/
def Reg.fit (r : Reg) (v : Word) : Word := (v.setWidth r.width).setWidth 32

/-- A register reads what was written to it, cut to its field bits (R13, R21). -/
theorem Regs.get_set_same (rs : Regs) (v : Word) (r : Reg) : (rs.set v r).get r = r.fit v := by
  cases r <;> rfl

/-- A write leaves every other register alone. -/
theorem Regs.get_set_other (rs : Regs) (v : Word) {r r' : Reg} (h : r ≠ r') :
    (rs.set v r).get r' = rs.get r' := by
  cases r <;> cases r' <;> first | rfl | exact absurd rfl h

/-- The value a pending set leaves in a register: the last one it lists for it, if any. -/
def lastValue : Updates → Reg → Option Word
  | [], _ => none
  | (r, v) :: upd, r' => (lastValue upd r').orElse fun _ => if r = r' then some v else none

/-- What a commit does to each register. -/
theorem Regs.get_commit (rs : Regs) (upd : Updates) (r : Reg) :
    (rs.commit upd).get r = match lastValue upd r with
      | some v => r.fit v
      | none => rs.get r := by
  induction upd generalizing rs with
  | nil => rfl
  | cons e upd ih =>
    obtain ⟨r', v⟩ := e
    rw [Regs.commit, ih, lastValue]
    cases lastValue upd r with
    | some w => rfl
    | none =>
      by_cases h : r' = r
      · subst h; simp [Regs.get_set_same]
      · simp [h, Regs.get_set_other _ _ h]

theorem lastValue_eq_none {upd : Updates} {r : Reg} (h : ∀ e ∈ upd, e.1 ≠ r) : lastValue upd r = none := by
  induction upd with
  | nil => rfl
  | cons e upd ih =>
    simp [lastValue, ih fun e he => h e (List.mem_cons_of_mem _ he), h e List.mem_cons_self]

/-- A commit leaves every register alone that its pending set does not list. -/
theorem Regs.get_commit_other (rs : Regs) {upd : Updates} {r : Reg} (h : ∀ e ∈ upd, e.1 ≠ r) :
    (rs.commit upd).get r = rs.get r := by
  rw [Regs.get_commit, lastValue_eq_none h]

theorem Regs.commit_append (rs : Regs) (u v : Updates) : rs.commit (u ++ v) = (rs.commit u).commit v := by
  induction u generalizing rs with
  | nil => rfl
  | cons e u ih => exact ih _

@[simp] theorem State.commit_csr (s : State) (upd : Updates) (r : Reg) :
    (s.commit upd).csr r = (s.regs.commit upd).get r := rfl

end Registers

end Sys2Proof.Machine
end

