-- ==== Sys2Proof/Laws/Memory.lean ====
section
/-! SUPPORT. The laws of a buffer: what a read gives after a write, what a region read answers, and that
every operation keeps the canonical form and the size. -/

namespace Sys2Proof.Machine

open Sys2Proof

theorem Memory.byteAt_append (m m' : Memory) (k : Nat) :
    Memory.byteAt (m ++ m') k = (Memory.byteAt m k).or (Memory.byteAt m' k) := by
  induction m with
  | nil => simp [Memory.byteAt]
  | cons c m ih =>
    obtain ⟨a, b⟩ := c
    simp only [List.cons_append, Memory.byteAt]
    split <;> simp [*]

theorem Memory.byteAt_filter (m : Memory) (p : Nat → Bool) (k : Nat) :
    Memory.byteAt (m.filter fun c => p c.1) k = if p k then m.byteAt k else none := by
  induction m with
  | nil => simp [Memory.byteAt]
  | cons c m ih =>
    obtain ⟨a, b⟩ := c
    by_cases hp : p a <;> by_cases hk : a = k <;> simp_all [Memory.byteAt]

/-- The cells of a byte string hold exactly its bytes. -/
theorem Memory.byteAt_cells (bs : Bytes) (a k : Nat) :
    (Memory.cells a bs).byteAt k = if a ≤ k then bs[k - a]? else none := by
  induction bs generalizing a with
  | nil => simp [Memory.cells, Memory.byteAt]
  | cons b bs ih =>
    rw [Memory.cells, Memory.byteAt, ih]
    by_cases h : a = k
    · simp [h]
    · by_cases hle : a ≤ k
      · have hk : k - a = k - (a + 1) + 1 := by omega
        simp [h, hle, show a + 1 ≤ k by omega, hk]
      · simp [h, hle, show ¬ a + 1 ≤ k by omega]

/-- Read after write: inside the bytes written, the byte written; elsewhere, the byte from before. -/
theorem Memory.byteAt_writeBytes (m : Memory) (a : Nat) (bs : Bytes) (k : Nat) :
    (m.writeBytes a bs).byteAt k = if a ≤ k ∧ k < a + bs.length then bs[k - a]? else m.byteAt k := by
  unfold Memory.writeBytes
  rw [Memory.byteAt_append, Memory.byteAt_append, Memory.byteAt_filter m (fun i => decide (i < a)),
    Memory.byteAt_filter m (fun i => decide (a + bs.length ≤ i)), Memory.byteAt_cells]
  by_cases h1 : a ≤ k
  · by_cases h2 : k < a + bs.length
    · have h3 : k - a < bs.length := by omega
      simp [h1, h2, show ¬ k < a by omega, h3]
    · have h3 : bs.length ≤ k - a := by omega
      simp [h1, h2, show ¬ k < a by omega, show a + bs.length ≤ k by omega, List.getElem?_eq_none h3]
  · simp [h1, show k < a by omega, show ¬ a + bs.length ≤ k by omega]

/-- Everything a region read can answer: the bytes, each held at its offset; or the lowest offset of the
region that holds no value. -/
theorem Memory.readBytes_eq_ok_iff (m : Memory) (n a : Nat) (bs : Bytes) :
    m.readBytes n a = .ok bs ↔ bs.length = n ∧ ∀ i (h : i < bs.length), m.byteAt (a + i) = some bs[i] := by
  induction n generalizing a bs with
  | zero => cases bs <;> simp [Memory.readBytes]
  | succ n ih =>
    rw [Memory.readBytes]
    cases hb : m.byteAt a with
    | none =>
      refine ⟨fun h => (by cases h), fun ⟨hl, h⟩ => ?_⟩
      have := h 0 (by omega)
      simp_all
    | some b =>
      dsimp only
      constructor
      · intro h
        cases hr : m.readBytes n (a + 1) with
        | error k => rw [hr] at h; cases h
        | ok cs =>
          rw [hr] at h
          cases h
          obtain ⟨hl, hc⟩ := (ih _ _).1 hr
          refine ⟨by simp [hl], fun i hi => ?_⟩
          cases i with
          | zero => simpa using hb
          | succ i =>
            have := hc i (by simpa using hi)
            simpa [Nat.add_assoc, Nat.add_comm 1 i] using this
      · rintro ⟨hl, h⟩
        cases bs with
        | nil => simp at hl
        | cons c cs =>
          have h0 := h 0 (by simp)
          have hr : m.readBytes n (a + 1) = .ok cs := by
            refine (ih _ _).2 ⟨by simpa using hl, fun i hi => ?_⟩
            have := h (i + 1) (by simpa using hi)
            simpa [Nat.add_assoc, Nat.add_comm 1 i] using this
          rw [hr]
          simp_all

theorem Memory.readBytes_eq_error_iff (m : Memory) (n a k : Nat) :
    m.readBytes n a = .error k ↔
      a ≤ k ∧ k < a + n ∧ m.byteAt k = none ∧ ∀ j, a ≤ j → j < k → m.byteAt j ≠ none := by
  induction n generalizing a with
  | zero => simp [Memory.readBytes]; omega
  | succ n ih =>
    rw [Memory.readBytes]
    cases hb : m.byteAt a with
    | none =>
      constructor
      · intro h
        cases h
        exact ⟨Nat.le_refl _, by omega, hb, fun j h1 h2 => by omega⟩
      · rintro ⟨h1, h2, h3, h4⟩
        by_cases hk : a = k
        · subst hk; rfl
        · exact absurd hb (h4 a (Nat.le_refl _) (by omega))
    | some b =>
      have hlow : ∀ k, m.byteAt k = none → a ≤ k → a + 1 ≤ k := by
        intro k hk hle
        by_cases h : a = k
        · subst h; simp [hb] at hk
        · omega
      dsimp only
      constructor
      · intro h
        cases hr : m.readBytes n (a + 1) with
        | ok cs => rw [hr] at h; cases h
        | error k' =>
          rw [hr] at h
          cases h
          obtain ⟨h1, h2, h3, h4⟩ := (ih _).1 hr
          refine ⟨by omega, by omega, h3, fun j h5 h6 => ?_⟩
          by_cases hj : a = j
          · subst hj; simp [hb]
          · exact h4 j (by omega) h6
      · rintro ⟨h1, h2, h3, h4⟩
        have hr : m.readBytes n (a + 1) = .error k :=
          (ih _).2 ⟨hlow k h3 h1, by omega, h3, fun j h5 h6 => h4 j (by omega) h6⟩
        rw [hr]

theorem Memory.cells_bounds {bs : Bytes} {a : Nat} {c : Host.Cell} (h : c ∈ Memory.cells a bs) :
    a ≤ c.1 ∧ c.1 < a + bs.length := by
  induction bs generalizing a with
  | nil => simp [Memory.cells] at h
  | cons b bs ih =>
    rw [Memory.cells, List.mem_cons] at h
    rcases h with rfl | h
    · simp
    · have := ih h
      simp only [List.length_cons]
      omega

theorem Memory.wf_cells (bs : Bytes) (a : Nat) : (Memory.cells a bs).wf := by
  induction bs generalizing a with
  | nil => exact List.Pairwise.nil
  | cons b bs ih =>
    refine List.Pairwise.cons (fun c hc => ?_) (ih _)
    have := Memory.cells_bounds hc
    simp only
    omega

/-- A write keeps the canonical form. -/
theorem Memory.wf_writeBytes {m : Memory} (h : m.wf) (a : Nat) (bs : Bytes) : (m.writeBytes a bs).wf := by
  unfold Memory.writeBytes Memory.wf
  refine List.pairwise_append.2 ⟨List.pairwise_append.2 ⟨h.filter _, Memory.wf_cells bs a, ?_⟩, h.filter _, ?_⟩
  · intro c hc d hd
    have h1 := Memory.cells_bounds hd
    have h2 := (List.mem_filter.1 hc).2
    simp only [decide_eq_true_eq] at h2
    omega
  · intro c hc d hd
    have h3 := (List.mem_filter.1 hd).2
    simp only [decide_eq_true_eq] at h3
    rcases List.mem_append.1 hc with hc | hc
    · have h2 := (List.mem_filter.1 hc).2
      simp only [decide_eq_true_eq] at h2
      omega
    · have := Memory.cells_bounds hc
      omega

/-- A write inside the buffer keeps it sound. -/
theorem Memory.sound_writeBytes {m : Memory} {size a : Nat} {bs : Bytes} (h : m.Sound size)
    (hle : a + bs.length ≤ size) : (m.writeBytes a bs).Sound size := by
  refine ⟨Memory.wf_writeBytes h.1 a bs, fun c hc => ?_⟩
  rcases List.mem_append.1 hc with hc | hc
  · rcases List.mem_append.1 hc with hc | hc
    · exact h.2 c (List.mem_filter.1 hc).1
    · have := Memory.cells_bounds hc
      omega
  · exact h.2 c (List.mem_filter.1 hc).1

/-- What `memRead` answers, in terms of the bytes the buffer holds. -/
theorem memRead_eq_ok_iff (s : State) (buf : Buf) (a n : Nat) (bs : Bytes) :
    memRead s buf a n = .ok bs ↔
      bs.length = n ∧ ∀ i (h : i < bs.length), (s.buffer buf).byteAt (a + i) = some bs[i] := by
  rw [← Memory.readBytes_eq_ok_iff]
  unfold memRead
  cases (s.buffer buf).readBytes n a <;> simp

theorem memRead_eq_error_iff (s : State) (buf : Buf) (a n : Nat) (f : Fault) :
    memRead s buf a n = .error f ↔ ∃ k, f = .noValue buf k ∧ a ≤ k ∧ k < a + n ∧
      (s.buffer buf).byteAt k = none ∧ ∀ j, a ≤ j → j < k → (s.buffer buf).byteAt j ≠ none := by
  simp only [← Memory.readBytes_eq_error_iff]
  unfold memRead
  cases (s.buffer buf).readBytes n a <;> simp [eq_comm]

end Sys2Proof.Machine
end

