-- ==== Sys2Proof/Laws/Outcome.lean ====
section
/-! SUPPORT. What the shared operations of the commands can answer, said once: the outcome of a command
(60_exceptions.md R266), the bodies of the encode commands (41_encode.md R170), the decode commands
(42_decode.md R200), CSUM_ADD (40_checksum.md R147) and BUILD (43_builder.md R240). -/

namespace Sys2Proof.Machine

open Sys2Proof

@[simp] theorem finish_done (s t : State) : finish s (.done t) = .next t.succeed := rfl
@[simp] theorem finish_raised (s : State) (e : Err) : finish s (.raised e) = .next (s.raise e) := rfl
@[simp] theorem finish_faulted (s : State) (f : Fault) : finish s (.faulted f) = .fault f := rfl

/-- A command answers a next state in two ways: its outputs on success, or STATUS alone on an error. -/
theorem finish_eq_next_iff (s t : State) (e : Ending) :
    finish s e = .next t ↔ (∃ u, e = .done u ∧ t = u.succeed) ∨ (∃ x, e = .raised x ∧ t = s.raise x) := by
  cases e <;> simp [eq_comm]

theorem finish_eq_fault_iff (s : State) (e : Ending) (f : Fault) :
    finish s e = .fault f ↔ e = .faulted f := by
  cases e <;> simp

theorem finish_ne_refused (s : State) (e : Ending) (r : Refusal) : finish s e ≠ .refused r := by
  cases e <;> simp

section Emit

variable {s t : State} {layer : Layer}

/-- The two ends of an encode command that write nothing: a layer's error, or an output too long. -/
theorem emit_error (s : State) (e : Err) : emit s (.error e) = .raised e := rfl

theorem emit_ok_of_le (s : State) {out : Bytes} (res : Updates) (h : out.length ≤ s.params.bufBytes) :
    emit s (.ok (out, res)) =
      .done (memWrite (s.commit (res ++ [(.outLen, BitVec.ofNat 32 out.length)])) .dst 0 out) := by
  simp [emit, h]

theorem emit_ok_of_lt (s : State) {out : Bytes} (res : Updates) (h : s.params.bufBytes < out.length) :
    emit s (.ok (out, res)) = .raised .badRegion := by
  simp [emit, Nat.not_le.2 h]

/-- If the end of an encode command writes, the layer gave the bytes and they fit DST_BUF. -/
theorem emit_eq_done (h : emit s layer = .done t) :
    ∃ out res, layer = .ok (out, res) ∧ out.length ≤ s.params.bufBytes ∧
      t = memWrite (s.commit (res ++ [(.outLen, BitVec.ofNat 32 out.length)])) .dst 0 out := by
  match layer, h with
  | .ok (out, res), h =>
    by_cases hle : out.length ≤ s.params.bufBytes
    · rw [emit_ok_of_le s res hle] at h
      cases h
      exact ⟨out, res, rfl, hle, rfl⟩
    · rw [emit_ok_of_lt s res (Nat.lt_of_not_le hle)] at h
      cases h

theorem emit_ne_faulted (s : State) (layer : Layer) (f : Fault) : emit s layer ≠ .faulted f := by
  match layer with
  | .error e => exact nofun
  | .ok (out, res) => unfold emit; dsimp only; split <;> exact nofun

end Emit

section Encode

variable {s t : State} {protoOk : Bool} {layer : Bytes → Layer}

theorem encodeBody_of_read {pay : Bytes} (hb : payloadInBounds s = true) (hp : protoOk = true)
    (hr : readPayload s = .ok pay) : encodeBody s protoOk layer = emit s (layer pay) := by
  simp [encodeBody, hb, hp, hr]

theorem encodeBody_of_badRegion (hb : payloadInBounds s = false) :
    encodeBody s protoOk layer = .raised .badRegion := by
  simp [encodeBody, hb]

theorem encodeBody_of_unknown (hb : payloadInBounds s = true) (hp : protoOk = false) :
    encodeBody s protoOk layer = .raised .unknownProtocol := by
  simp [encodeBody, hb, hp]

theorem encodeBody_of_fault {f : Fault} (hb : payloadInBounds s = true) (hp : protoOk = true)
    (hr : readPayload s = .error f) : encodeBody s protoOk layer = .faulted f := by
  simp [encodeBody, hb, hp, hr]

/-- The four ways an encode command can go (R170), in the order of its checks. -/
theorem encodeBody_cases (s : State) (protoOk : Bool) (layer : Bytes → Layer) :
    (payloadInBounds s = false ∧ encodeBody s protoOk layer = .raised .badRegion) ∨
    (payloadInBounds s = true ∧ protoOk = false ∧ encodeBody s protoOk layer = .raised .unknownProtocol) ∨
    (payloadInBounds s = true ∧ protoOk = true ∧ ∃ f, readPayload s = .error f ∧
      encodeBody s protoOk layer = .faulted f) ∨
    (payloadInBounds s = true ∧ protoOk = true ∧ ∃ pay, readPayload s = .ok pay ∧
      encodeBody s protoOk layer = emit s (layer pay)) := by
  cases hb : payloadInBounds s
  · exact .inl ⟨rfl, encodeBody_of_badRegion hb⟩
  cases hp : protoOk
  · exact .inr (.inl ⟨rfl, rfl, encodeBody_of_unknown hb rfl⟩)
  cases hr : readPayload s with
  | error f => exact .inr (.inr (.inl ⟨rfl, rfl, f, rfl, encodeBody_of_fault hb rfl hr⟩))
  | ok pay => exact .inr (.inr (.inr ⟨rfl, rfl, pay, rfl, encodeBody_of_read hb rfl hr⟩))

end Encode

section Decode

variable {s : State} {minLen : Nat} {layer : Bytes → Updates × Nat}

theorem decodeBody_of_read {b : Bytes} (hb : inputInBounds s = true) (hm : minLen ≤ s.regs.inLen.toNat)
    (hr : readInput s = .ok b) :
    decodeBody s minLen layer = .done (s.commit ((layer b).1 ++ payloadRegion s (layer b).2)) := by
  simp [decodeBody, hb, Nat.not_lt.2 hm, hr]

theorem decodeBody_of_badRegion (hb : inputInBounds s = false) :
    decodeBody s minLen layer = .raised .badRegion := by
  simp [decodeBody, hb]

theorem decodeBody_of_short (hb : inputInBounds s = true) (hm : s.regs.inLen.toNat < minLen) :
    decodeBody s minLen layer = .raised .truncatedInput := by
  simp [decodeBody, hb, hm]

theorem decodeBody_of_fault {f : Fault} (hb : inputInBounds s = true) (hm : minLen ≤ s.regs.inLen.toNat)
    (hr : readInput s = .error f) : decodeBody s minLen layer = .faulted f := by
  simp [decodeBody, hb, Nat.not_lt.2 hm, hr]

/-- The four ways a decode command can go (R200), in the order of its checks. -/
theorem decodeBody_cases (s : State) (minLen : Nat) (layer : Bytes → Updates × Nat) :
    (inputInBounds s = false ∧ decodeBody s minLen layer = .raised .badRegion) ∨
    (inputInBounds s = true ∧ s.regs.inLen.toNat < minLen ∧
      decodeBody s minLen layer = .raised .truncatedInput) ∨
    (inputInBounds s = true ∧ minLen ≤ s.regs.inLen.toNat ∧ ∃ f, readInput s = .error f ∧
      decodeBody s minLen layer = .faulted f) ∨
    (inputInBounds s = true ∧ minLen ≤ s.regs.inLen.toNat ∧ ∃ b, readInput s = .ok b ∧
      decodeBody s minLen layer = .done (s.commit ((layer b).1 ++ payloadRegion s (layer b).2))) := by
  cases hb : inputInBounds s
  · exact .inl ⟨rfl, decodeBody_of_badRegion hb⟩
  rcases Nat.lt_or_ge s.regs.inLen.toNat minLen with hm | hm
  · exact .inr (.inl ⟨rfl, hm, decodeBody_of_short hb hm⟩)
  cases hr : readInput s with
  | error f => exact .inr (.inr (.inl ⟨rfl, hm, f, rfl, decodeBody_of_fault hb hm hr⟩))
  | ok b => exact .inr (.inr (.inr ⟨rfl, hm, b, rfl, decodeBody_of_read hb hm hr⟩))

end Decode

/-- The three ways CSUM_ADD can go (40_checksum.md R147). -/
theorem csumAddBody_cases (buf : Buf) (s : State) :
    (s.inBounds s.regs.csOff.toNat s.regs.csLen.toNat = false ∧ csumAddBody buf s = .raised .badRegion) ∨
    (s.inBounds s.regs.csOff.toNat s.regs.csLen.toNat = true ∧
      ∃ f, memRead s buf s.regs.csOff.toNat s.regs.csLen.toNat = .error f ∧ csumAddBody buf s = .faulted f) ∨
    (s.inBounds s.regs.csOff.toNat s.regs.csLen.toNat = true ∧
      ∃ b, memRead s buf s.regs.csOff.toNat s.regs.csLen.toNat = .ok b ∧
        csumAddBody buf s = .done (s.commit [(.csumAcc, accBytes s.regs.csumAcc b)])) := by
  unfold csumAddBody
  cases s.inBounds s.regs.csOff.toNat s.regs.csLen.toNat
  · simp
  · cases memRead s buf s.regs.csOff.toNat s.regs.csLen.toNat <;> simp

/-- The four ways BUILD can go (43_builder.md R240), in the order of its checks. -/
theorem buildBody_cases (s : State) :
    (s.tsel = .none ∧ buildBody s = .raised .unselectedProtocol) ∨
    (s.tsel ≠ .none ∧ payloadInBounds s = false ∧ buildBody s = .raised .badRegion) ∨
    (s.tsel ≠ .none ∧ payloadInBounds s = true ∧ ∃ f, readPayload s = .error f ∧
      buildBody s = .faulted f) ∨
    (s.tsel ≠ .none ∧ payloadInBounds s = true ∧ ∃ pay, readPayload s = .ok pay ∧
      buildBody s = emit s (buildLayer s.regs s.tsel pay)) := by
  by_cases ht : s.tsel = .none
  · simp [buildBody, ht]
  cases hb : payloadInBounds s
  · simp [buildBody, ht, hb]
  cases hr : readPayload s <;> simp [buildBody, ht, hb, hr]

/-- The payload region is in bounds exactly when it ends at or below BUF_BYTES (20_memory.md R79). -/
theorem payloadInBounds_iff (s : State) :
    payloadInBounds s = true ↔ s.regs.payOff.toNat + s.regs.payLen.toNat ≤ s.params.bufBytes := by
  simp [payloadInBounds, State.inBounds]

theorem inputInBounds_iff (s : State) :
    inputInBounds s = true ↔ s.regs.inOff.toNat + s.regs.inLen.toNat ≤ s.params.bufBytes := by
  simp [inputInBounds, State.inBounds]

theorem inBounds_iff (s : State) (off len : Nat) :
    s.inBounds off len = true ↔ off + len ≤ s.params.bufBytes := by
  simp [State.inBounds]

end Sys2Proof.Machine
end

