-- ==== Sys2Proof/Laws/Bus.lean ====
section
/-! SUPPORT. What one step of the host does: an access the host issues reaches the space its offset names,
and the registers and buffers answer as 20_memory.md R72 and R73 say. -/

namespace Sys2Proof.Machine

open Sys2Proof

/-- An access to the window, with reset released, goes to the space its offset names. -/
theorem step_of_issues {s : State} {a : Access} {rest : List HostOp} (h : s.Issues a rest)
    (hlo : s.params.base ≤ a.addr) (hhi : a.addr < s.params.base + 0x80000) :
    step s = windowAccess a (a.addr - s.params.base) { s with pending := rest } := by
  obtain ⟨hp, hr⟩ := h
  simp only [step, hostStep, hp, hostOp, busAccess, hlo, hhi, and_self, if_true, hr]

/-- The same for an access written as an offset from BASE. -/
theorem step_of_issues_at {s : State} {off width : Nat} {op : BusOp} {rest : List HostOp}
    (h : s.Issues ⟨s.params.base + off, width, op⟩ rest) (hoff : off < 0x80000) :
    step s = windowAccess ⟨s.params.base + off, width, op⟩ off { s with pending := rest } := by
  rw [step_of_issues h (Nat.le_add_right _ _) (Nat.add_lt_add_left hoff _), Nat.add_sub_cancel_left]

/-- An aligned 32-bit access at a listed offset of the register file (R73). -/
theorem step_register {s : State} {off : Nat} {op : BusOp} {rest : List HostOp} {slot : Slot}
    (h : s.Issues ⟨s.params.base + off, 32, op⟩ rest) (hoff : off < 0x1000) (h4 : off % 4 = 0)
    (hs : Slot.atOffset off = some slot) :
    step s = match op with
      | .read => .next (State.returned { s with pending := rest } (readSlot slot { s with pending := rest }))
      | .write v => writeSlot slot v { s with pending := rest } := by
  rw [step_of_issues_at h (by omega)]
  simp only [windowAccess, if_pos hoff, regAccess, h4, hs, and_self, if_true]
  cases op <;> rfl

/-- A CMD write runs its word (10_state.md R26). -/
theorem step_cmd {s : State} {w : Word} {rest : List HostOp} (h : s.Issues ⟨s.params.base, 32, .write w⟩ rest) :
    step s = runCommand w { s with pending := rest } :=
  step_register (off := 0) (slot := .cmd) h (by decide) rfl rfl

theorem windowAccess_src {a : Access} {off : Nat} {s : State} (hoff : off < 0x20000) :
    windowAccess a (0x20000 + off) s = bufAccess a .src off s := by
  unfold windowAccess
  rw [if_neg (by omega), if_pos (by omega), Nat.add_sub_cancel_left]

theorem windowAccess_dst {a : Access} {off : Nat} {s : State} (hoff : off < 0x20000) :
    windowAccess a (0x40000 + off) s = bufAccess a .dst off s := by
  unfold windowAccess
  rw [if_neg (by omega), if_neg (by omega), if_pos (by omega), Nat.add_sub_cancel_left]

/-- An access inside a buffer's space (R70). -/
theorem step_buffer {s : State} {buf : Buf} {off width : Nat} {op : BusOp} {rest : List HostOp}
    (h : s.Issues ⟨s.params.base + bufferBase buf + off, width, op⟩ rest) (hoff : off < 0x20000) :
    step s = bufAccess ⟨s.params.base + bufferBase buf + off, width, op⟩ buf off { s with pending := rest } := by
  have hb : bufferBase buf + off < 0x80000 := by cases buf <;> simp only [bufferBase] <;> omega
  rw [Nat.add_assoc] at h ⊢
  rw [step_of_issues_at h hb]
  cases buf with
  | src => exact windowAccess_src hoff
  | dst => exact windowAccess_dst hoff

/-- What a write to a buffer leaves: its own bytes stored, the other buffer as it was. -/
theorem memWrite_stores (s : State) (buf : Buf) (a : Nat) (bs : Bytes) :
    Stored (s.buffer buf) ((memWrite s buf a bs).buffer buf) a bs ∧
      ∀ other, other ≠ buf → (memWrite s buf a bs).buffer other = s.buffer other := by
  refine ⟨fun k => ?_, fun other h => ?_⟩
  · cases buf <;> exact Memory.byteAt_writeBytes _ _ _ _
  · cases buf <;> cases other <;> first | rfl | exact absurd rfl h

/-- A region read meets a byte with no value exactly when the region lacks one. -/
theorem memRead_of_lacks {s : State} {buf : Buf} {a n : Nat} (h : s.Lacks buf a n) :
    ∃ k, memRead s buf a n = .error (.noValue buf k) ∧ a ≤ k ∧ k < a + n ∧ (s.buffer buf).byteAt k = none := by
  cases hm : memRead s buf a n with
  | error f =>
    obtain ⟨k, rfl, h1, h2, h3, _⟩ := (memRead_eq_error_iff _ _ _ _ _).1 hm
    exact ⟨k, rfl, h1, h2, h3⟩
  | ok bs =>
    obtain ⟨hl, hh⟩ := (memRead_eq_ok_iff _ _ _ _ _).1 hm
    obtain ⟨k, h1, h2, h3⟩ := h
    have := hh (k - a) (by omega)
    rw [show a + (k - a) = k by omega, h3] at this
    cases this

/-- A region that holds the bytes reads as them. -/
theorem memRead_of_holds {s : State} {buf : Buf} {a n : Nat} {bs : Bytes} (hl : bs.length = n)
    (h : s.Holds buf a bs) : memRead s buf a n = .ok bs :=
  (memRead_eq_ok_iff _ _ _ _ _).2 ⟨hl, h⟩

theorem readPayload_of_payloadIs {s : State} {pay : Bytes} (h : s.PayloadIs pay) : readPayload s = .ok pay :=
  memRead_of_holds h.2.1 h.2.2

theorem readInput_of_inputIs {s : State} {b : Bytes} (h : s.InputIs b) : readInput s = .ok b :=
  memRead_of_holds h.2.1 h.2.2

end Sys2Proof.Machine
end

