-- ==== Sys2Proof/Laws/Layers.lean ====
section
/-! SUPPORT. The wire primitives read back what they wrote, the headers have their fixed sizes, and the
checksum functions stay within their widths. -/

namespace Sys2Proof.Machine

open Sys2Proof

@[simp] theorem be16_length (v : Half) : (be16 v).length = 2 := rfl
@[simp] theorem be32_length (v : Word) : (be32 v).length = 4 := rfl

/-- The two bytes of `be16` are the number again (R12). -/
@[simp] theorem half_be16 (v : Half) : half (v.extractLsb' 8 8) (v.extractLsb' 0 8) = v := by
  unfold half
  ext i hi
  simp only [BitVec.getElem_append, BitVec.getElem_extractLsb']
  split
  · simp [BitVec.getLsbD_eq_getElem, hi]
  · rw [show 8 + (i - 8) = i by omega]
    simp [BitVec.getLsbD_eq_getElem, hi]

/-- The four bytes of `be32` are the number again (R12). -/
@[simp] theorem half_be32 (v : Word) :
    half (v.extractLsb' 24 8) (v.extractLsb' 16 8) ++ half (v.extractLsb' 8 8) (v.extractLsb' 0 8) = v := by
  unfold half
  ext i hi
  simp only [BitVec.getElem_append, BitVec.getElem_extractLsb']
  split
  · split
    · simp [BitVec.getLsbD_eq_getElem, hi]
    · rw [show 8 + (i - 8) = i by omega]
      simp [BitVec.getLsbD_eq_getElem, hi]
  · split
    · rw [show 16 + (i - 16) = i by omega]
      simp [BitVec.getLsbD_eq_getElem, hi]
    · rw [show 24 + (i - 16 - 8) = i by omega]
      simp [BitVec.getLsbD_eq_getElem, hi]

/-- The bits of two joined bytes. -/
theorem half_getLsbD (a b : Byte) (k : Nat) : (half a b).getLsbD k = if k < 8 then b.getLsbD k else a.getLsbD (k - 8) :=
  BitVec.getLsbD_append

/-- Writing two joined bytes gives the two bytes (R12). -/
theorem be16_half (a b : Byte) : be16 (half a b) = [a, b] := by
  have h1 : (half a b).extractLsb' 8 8 = a := by
    apply BitVec.eq_of_getLsbD_eq
    intro k hk
    rw [BitVec.getLsbD_extractLsb', half_getLsbD]
    simp [hk, show ¬ 8 + k < 8 by omega]
  have h2 : (half a b).extractLsb' 0 8 = b := by
    apply BitVec.eq_of_getLsbD_eq
    intro k hk
    rw [BitVec.getLsbD_extractLsb', half_getLsbD]
    simp [hk]
  rw [be16, h1, h2]

/-- Writing two joined halves writes each of them (R12). -/
theorem be32_halves (a b : Half) : be32 (a ++ b : BitVec (16 + 16)) = be16 a ++ be16 b := by
  have h (n k : Nat) : ((a ++ b : BitVec (16 + 16)) : Word).getLsbD (n + k) = if n + k < 16 then b.getLsbD (n + k) else a.getLsbD (n + k - 16) :=
    BitVec.getLsbD_append
  simp only [be32, be16, List.cons_append, List.nil_append, List.cons.injEq, and_true]
  refine ⟨?_, ?_, ?_, ?_⟩ <;>
  · apply BitVec.eq_of_getLsbD_eq
    intro k hk
    rw [BitVec.getLsbD_extractLsb', BitVec.getLsbD_extractLsb', h]
    first
      | rw [if_pos (by omega)]
      | (rw [if_neg (by omega)]; congr 2; omega)

theorem pseudo_length (s d : Word) (proto : Byte) (ln : Half) : (pseudo (be32 s) (be32 d) proto ln).length = 12 := rfl

theorem ethFrame_length (rs : Regs) (etype : Half) (pay : Bytes) :
    (ethFrame rs etype pay).length = 14 + pay.length := by
  simp [ethFrame]; omega

theorem ipHeader_length (rs : Regs) (proto : Byte) (tl c : Half) : (ipHeader rs proto tl c).length = 20 := rfl
theorem tcpHeader_length (rs : Regs) (c : Half) : (tcpHeader rs c).length = 20 := rfl
theorem udpHeader_length (rs : Regs) (ln c : Half) : (udpHeader rs ln c).length = 8 := rfl
theorem icmpHeader_length (rs : Regs) (c : Half) : (icmpHeader rs c).length = 8 := rfl

/-- `add32` on naturals: the sum, or the sum with its carry out of bit 31 added back at bit 0 (R140). -/
theorem add32_toNat (acc : Word) (w : Half) :
    (add32 acc w).toNat =
      if 2 ^ 32 ≤ acc.toNat + w.toNat then acc.toNat + w.toNat - 2 ^ 32 + 1 else acc.toNat + w.toNat := by
  have h1 := acc.isLt
  have h2 := w.isLt
  simp only [add32]
  split <;> simp only [BitVec.toNat_ofNat] <;> omega

theorem foldPass_toNat_lt {n : Nat} (h : n < 2 ^ 32) : foldPass (foldPass n) < 2 ^ 16 := by
  have pass : ∀ m, foldPass m ≤ m % 0x10000 + m / 0x10000 := by
    intro m; unfold foldPass; split <;> omega
  have hm : ∀ m, m ≤ 0x1FFFE → foldPass m < 0x10000 := by
    intro m hlt; unfold foldPass; split <;> omega
  have := pass n
  exact hm _ (by omega)

/-- Two passes of the loop of `fold` are enough (R143): no bit is lost when its result is cut to 16 bits. -/
theorem fold_toNat (acc : Word) : (fold acc).toNat = foldPass (foldPass acc.toNat) := by
  rw [fold, BitVec.toNat_ofNat, Nat.mod_eq_of_lt (foldPass_toNat_lt acc.isLt)]

/-- What an IPv4 encoding answers (R172). -/
theorem fIpv4_eq (rs : Regs) (proto : Byte) (pay : Bytes) :
    fIpv4 rs proto pay =
      if 0xFFFF < 20 + pay.length then .error .lengthOverflow
      else
        let tl := BitVec.ofNat 16 (20 + pay.length)
        let c := inetCsum (ipHeader rs proto tl 0)
        .ok (ipHeader rs proto tl c ++ pay,
          [(.ipVerIhl, 0x45), (.ipTotlen, tl.setWidth 32), (.ipCsum, c.setWidth 32)]) := rfl

end Sys2Proof.Machine
end

