-- ==== Sys2Proof/Laws/PerInstr.lean ====
section
/-! SUPPORT. A property of every command as syntax, one lemma a constructor: its word is a legal command
word (30_encoding.md R97) that carries the command's OP in bits [7:0] (R95). -/

namespace Sys2Proof.Laws.EncodedWordLegal

open Sys2Proof

/-- The word of the command carries its OP and is legal. -/
def Statement (i : Instr) : Prop := opField (encode i) = opOf i ∧ legal (encode i) = true

theorem csumClear : Statement .csumClear := by unfold Statement; decide
theorem csumAdd (buf : Buf) : Statement (.csumAdd buf) := by unfold Statement; cases buf <;> decide
theorem csumPseudo (proto : Byte) : Statement (.csumPseudo proto) := by
  unfold Statement; revert proto; decide
theorem csumFinal (zf : Bool) : Statement (.csumFinal zf) := by unfold Statement; cases zf <;> decide
theorem encEth : Statement .encEth := by unfold Statement; decide
theorem encIpv4 : Statement .encIpv4 := by unfold Statement; decide
theorem encTcp : Statement .encTcp := by unfold Statement; decide
theorem encUdp : Statement .encUdp := by unfold Statement; decide
theorem encIcmp : Statement .encIcmp := by unfold Statement; decide
theorem decEth : Statement .decEth := by unfold Statement; decide
theorem decIpv4 : Statement .decIpv4 := by unfold Statement; decide
theorem decTcp : Statement .decTcp := by unfold Statement; decide
theorem decUdp : Statement .decUdp := by unfold Statement; decide
theorem decIcmp : Statement .decIcmp := by unfold Statement; decide
theorem selIcmp : Statement .selIcmp := by unfold Statement; decide
theorem selTcp : Statement .selTcp := by unfold Statement; decide
theorem selUdp : Statement .selUdp := by unfold Statement; decide
theorem build : Statement .build := by unfold Statement; decide
theorem loadDefaults : Statement .loadDefaults := by unfold Statement; decide

end Sys2Proof.Laws.EncodedWordLegal
end

