-- ==== Sys2Proof/Tests/Slice0.lean ====
section
/-! SUPPORT. Tests and witnesses. The tests' words are written by hand from the fields of 30_encoding.md R95
and their expected values are the vectors of 95_test_vectors.md; a witness shows a concrete state that
meets the hypotheses of a statement together, at the ends of their ranges. -/

namespace Sys2Proof.Tests

open Sys2Proof Sys2Proof.Machine Sys2Proof.Claims

/-! ## Helpers -/

/-- The reset state with registers written. -/
def start (upd : Updates) : State := State.reset.commit upd

/-- The same with a payload region at offset 0 of SRC_BUF. -/
def payloadState (pay : Bytes) (upd : Updates) : State :=
  { (start upd).commit [(.payLen, BitVec.ofNat 32 pay.length)] with src := Memory.cells 0 pay }

/-- The same with an input region at offset 0x100 of SRC_BUF. -/
def inputState (b : Bytes) (upd : Updates) : State :=
  { (start upd).commit [(.inOff, 0x100), (.inLen, BitVec.ofNat 32 b.length)] with src := Memory.cells 0x100 b }

/-- The values of some registers after an outcome. -/
def regsOf (rs : List Reg) : Host.Outcome State Fault Refusal → List Word
  | .next t => rs.map t.csr
  | _ => []

/-- STATUS after an outcome. -/
def statusOf : Host.Outcome State Fault Refusal → Option Word
  | .next t => some t.statusWord
  | _ => none

/-- DST_BUF after an outcome. -/
def dstOf : Host.Outcome State Fault Refusal → Option Memory
  | .next t => some t.dst
  | _ => none

/-- The fault of an outcome. -/
def faultOf : Host.Outcome State Fault Refusal → Option Fault
  | .fault f => some f
  | _ => none

/-- The values the host has read after an outcome. -/
def readsOf : Host.Outcome State Fault Refusal → Option (List Word)
  | .next t => some t.reads
  | _ => none

/-- One host access at a window offset. -/
def host (off width : Nat) (op : BusOp) (s : State) : State :=
  { s with pending := [.access ⟨s.params.base + off, width, op⟩] }

/-- The bytes of "Hello". -/
def hello : Bytes := [0x48, 0x65, 0x6c, 0x6c, 0x6f]

/-- The header of vector W1. -/
def w1 : Bytes :=
  [0x45, 0x00, 0x00, 0x3c, 0x1c, 0x46, 0x40, 0x00, 0x40, 0x06, 0x00, 0x00, 0xac, 0x10, 0x0a, 0x63,
   0xac, 0x10, 0x0a, 0x0c]

/-! ## Command words (R95, R97, R98; 95_test_vectors.md 2.5) -/

theorem test_decode_checksum :
    decode 0b00000000_00000000_00000000_00000001 = .ok .csumClear ∧
    decode 0b00000000_00000000_00000000_00000010 = .ok (.csumAdd .src) ∧
    decode 0b00000000_00000000_00000001_00000010 = .ok (.csumAdd .dst) ∧
    decode 0b00000000_00010001_00000000_00000011 = .ok (.csumPseudo 17) ∧
    decode 0b00000000_11111111_00000000_00000011 = .ok (.csumPseudo 255) ∧
    decode 0b00000000_00000000_00000000_00000100 = .ok (.csumFinal false) ∧
    decode 0b00000000_00000000_00000010_00000100 = .ok (.csumFinal true) := ⟨rfl, rfl, rfl, rfl, rfl, rfl, rfl⟩

theorem test_decode_encode :
    decode 0b00010000 = .ok .encEth ∧ decode 0b00010001 = .ok .encIpv4 ∧ decode 0b00010010 = .ok .encTcp ∧
    decode 0b00010011 = .ok .encUdp ∧ decode 0b00010100 = .ok .encIcmp := ⟨rfl, rfl, rfl, rfl, rfl⟩

theorem test_decode_decode :
    decode 0b00100000 = .ok .decEth ∧ decode 0b00100001 = .ok .decIpv4 ∧ decode 0b00100010 = .ok .decTcp ∧
    decode 0b00100011 = .ok .decUdp ∧ decode 0b00100100 = .ok .decIcmp := ⟨rfl, rfl, rfl, rfl, rfl⟩

theorem test_decode_builder :
    decode 0b00110000 = .ok .selIcmp ∧ decode 0b00110001 = .ok .selTcp ∧ decode 0b00110010 = .ok .selUdp ∧
    decode 0b01000000 = .ok .build ∧ decode 0b01000001 = .ok .loadDefaults := ⟨rfl, rfl, rfl, rfl, rfl⟩

/-- The legality rows of 95_test_vectors.md 2.5: each check of R97 refuses its words. -/
theorem test_illegal_words :
    ([0x00000000, 0x00000005, 0x00000025, 0x00000033, 0x00000042, 0x00000045, 0x000000FF, 0x00000140, 0x80000040,
      0x00000502, 0x00000202, 0x00000302, 0x00000104, 0x00000604, 0x00000103, 0x01000003] : List Word).all
        (fun w => !legal w && statusOf (runCommand w State.reset) == some 0x106) = true := by decide

theorem test_legal_words :
    ([0x00FF0003, 0x00000102, 0x00000204, 0x00110003] : List Word).all legal = true := by decide

/-- Parameters outside the bounds of R8, one for each check. -/
theorem test_params_refused :
    ¬ (Params.mk 0x1000 131072 []).Ok ∧ ¬ (Params.mk 0 65548 []).Ok ∧ ¬ (Params.mk 0 131073 []).Ok ∧
      Params.standard.Ok := by decide

theorem test_params_payload_refused : ¬ (Params.mk 0 131072 (List.replicate 65496 0)).Ok := by
  rintro ⟨-, -, -, h⟩
  rw [List.length_replicate] at h
  omega

theorem test_decodeTableWord :
    decodeTableWord 32 0x00110003 = some (.csumPseudo 17) ∧ decodeTableWord 8 0x140 = some .build ∧
      decodeTableWord 32 0x140 = none := by decide

/-! ## One command (95_test_vectors.md) -/

/-- R146. -/
theorem test_csumClear : regsOf [.csumAcc] (exec .csumClear (start [(.csumAcc, 0x24E17)])) = [0] := by decide

/-- W1. -/
theorem test_csumAdd_w1 :
    regsOf [.csumAcc] (exec (.csumAdd .src) { start [(.csLen, 20)] with src := Memory.cells 0 w1 }) =
      [0x00024E17] := by decide

/-- 2.1: end-around carry, from DST_BUF. -/
theorem test_csumAdd_carry :
    regsOf [.csumAcc] (exec (.csumAdd .dst)
      { start [(.csLen, 2), (.csumAcc, 0xFFFFFFFF)] with dst := Memory.cells 0 [0x00, 0x01] }) = [1] := by decide

/-- 2.1. -/
theorem test_csumPseudo :
    regsOf [.csumAcc] (exec (.csumPseudo 17) (start [(.csPlen, 8)])) = [0x000183CE] ∧
      regsOf [.csumAcc] (exec (.csumPseudo 255) (start [(.csumAcc, 0xFFFFFFFF)])) = [0x000184B4] := by decide

/-- 2.1. -/
theorem test_csumFinal :
    [0x0, 0xFFFF, 0xFFFFFFFF, 0x1FFFF, 0x24E17, 0x12345678].flatMap
      (fun a => regsOf [.csumRes] (exec (.csumFinal false) (start [(.csumAcc, a)]))) =
        [0xFFFF, 0, 0, 0xFFFE, 0xB1E6, 0x9753] := by decide

/-- 2.1. -/
theorem test_csumFinal_zf :
    [0x0, 0xFFFF, 0xFFFFFFFF, 0x1FFFF].flatMap
      (fun a => regsOf [.csumRes] (exec (.csumFinal true) (start [(.csumAcc, a)]))) =
        [0xFFFF, 0xFFFF, 0xFFFF, 0xFFFE] := by decide

/-- 2.2. -/
theorem test_encEth :
    dstOf (exec .encEth (payloadState hello [])) = some (Memory.cells 0
      ([0xff, 0xff, 0xff, 0xff, 0xff, 0xff, 0x00, 0x11, 0x22, 0x33, 0x44, 0x55, 0x08, 0x00] ++ hello)) := by decide

/-- 2.2. -/
theorem test_encIpv4 :
    dstOf (exec .encIpv4 (payloadState []
        [(.ipProto, 6), (.ipTos, 0xFF), (.ipFlags, 7), (.ipFrag, 0x1FFF), (.ipTtl, 0)])) =
      some (Memory.cells 0 [0x45, 0xff, 0x00, 0x14, 0xd4, 0x31, 0xff, 0xff, 0x00, 0x06, 0x61, 0xfe, 0xc0, 0xa8,
        0x01, 0x64, 0xc0, 0xa8, 0x01, 0x01]) := by decide

/-- 2.2: the protocol check comes before the read. -/
theorem test_encIpv4_unknown :
    statusOf (exec .encIpv4 (start [(.payLen, 4)])) = some 0x103 := by decide

/-- 2.2. -/
theorem test_encTcp :
    dstOf (exec .encTcp (payloadState [] [(.tcpSport, 0), (.tcpDport, 0xFFFF), (.tcpSeq, 0xFFFFFFFF),
        (.tcpAck, 0xFFFFFFFF), (.tcpFlags, 0x1FF), (.tcpWin, 0), (.tcpUrg, 0xFFFF)])) =
      some (Memory.cells 0 [0x00, 0x00, 0xff, 0xff, 0xff, 0xff, 0xff, 0xff, 0xff, 0xff, 0xff, 0xff, 0x51, 0xff,
        0x00, 0x00, 0x2a, 0x30, 0xff, 0xff]) := by decide

/-- 2.2: BAD_REGION of the payload. -/
theorem test_encTcp_badRegion :
    statusOf (exec .encTcp (start [(.payOff, 0x20000), (.payLen, 1)])) = some 0x105 := by decide

/-- W3: the zero rule. -/
theorem test_encUdp_zero :
    dstOf (exec .encUdp (payloadState [0x4b, 0xb6] [])) =
      some (Memory.cells 0 [0x30, 0x39, 0x00, 0x35, 0x00, 0x0a, 0xff, 0xff, 0x4b, 0xb6]) := by decide

/-- 2.2: an odd payload, and the result registers. -/
theorem test_encUdp_odd :
    regsOf [.udpLen, .udpCsum, .outLen] (exec .encUdp (payloadState [0x61] [])) = [9, 0xEAB7, 9] := by decide

/-- 2.2. -/
theorem test_encIcmp :
    dstOf (exec .encIcmp (payloadState [0x61, 0x62, 0x63] [])) =
      some (Memory.cells 0 [0x08, 0x00, 0x33, 0x9b, 0x00, 0x01, 0x00, 0x01, 0x61, 0x62, 0x63]) := by decide

/-- 2.2: an empty region at the end is in bounds. -/
theorem test_encIcmp_end :
    dstOf (exec .encIcmp (start [(.payOff, 0x20000)])) =
      some (Memory.cells 0 [0x08, 0x00, 0xf7, 0xfd, 0x00, 0x01, 0x00, 0x01]) := by decide

/-- 2.3. -/
theorem test_decEth :
    regsOf [.ethDstHi, .ethDstLo, .ethSrcHi, .ethSrcLo, .ethType, .payOff, .payLen] (exec .decEth (inputState
      [0x01, 0x02, 0x03, 0x04, 0x05, 0x06, 0x0a, 0x0b, 0x0c, 0x0d, 0x0e, 0x0f, 0x86, 0xdd] [])) =
        [0x0102, 0x03040506, 0x0A0B, 0x0C0D0E0F, 0x86DD, 0x10E, 0] := by decide

/-- 2.3: the region check, the length check and the read, in this order. -/
theorem test_decEth_order :
    statusOf (exec .decEth (start [(.inOff, 0x1FFFE), (.inLen, 5)])) = some 0x105 ∧
      statusOf (exec .decEth (start [(.inLen, 4)])) = some 0x101 ∧
      faultOf (exec .decEth (start [(.inLen, 14)])) = some (.noValue .src 0) := by decide

/-- 2.3: IHL 6, the options are skipped. -/
theorem test_decIpv4_options :
    regsOf [.ipVerIhl, .ipTotlen, .ipId, .ipTtl, .ipProto, .ipCsum, .payOff, .payLen] (exec .decIpv4 (inputState
      [0x46, 0x00, 0x00, 0x17, 0xd4, 0x31, 0x00, 0x00, 0x40, 0x11, 0x00, 0x00, 0xc0, 0xa8, 0x01, 0x64,
       0xc0, 0xa8, 0x01, 0x01, 0x01, 0x01, 0x01, 0x00, 0x61, 0x62, 0x63] [])) =
        [0x46, 0x17, 0xd431, 0x40, 17, 0, 0x118, 3] := by decide

/-- 2.3: IHL 15 and 22 bytes. -/
theorem test_decIpv4_short :
    regsOf [.ipVerIhl, .payOff, .payLen] (exec .decIpv4 (inputState
      [0x4f, 0x00, 0x00, 0x14, 0xd4, 0x31, 0x00, 0x00, 0x40, 0x11, 0x00, 0x00, 0xc0, 0xa8, 0x01, 0x64,
       0xc0, 0xa8, 0x01, 0x01, 0x78, 0x79] [])) = [0x4F, 0x116, 0] := by decide

/-- 2.3: reserved bits kept. -/
theorem test_decTcp :
    regsOf [.tcpSeq, .tcpAck, .tcpHlen, .tcpFlags, .tcpWin, .tcpCsum, .payOff, .payLen] (exec .decTcp (inputState
      [0x30, 0x39, 0x00, 0x50, 0x00, 0x00, 0x00, 0x01, 0x00, 0x00, 0x00, 0x02, 0x5e, 0x02, 0x00, 0x00,
       0xff, 0xff, 0x00, 0x00, 0x7a, 0x7a] [])) = [1, 2, 0x2F, 0x002, 0, 0xFFFF, 0x114, 2] := by decide

/-- 2.3: data offset 0. -/
theorem test_decTcp_offset0 :
    regsOf [.tcpHlen, .tcpFlags, .payOff, .payLen] (exec .decTcp (inputState
      [0x30, 0x39, 0x00, 0x50, 0x00, 0x00, 0x00, 0x01, 0x00, 0x00, 0x00, 0x02, 0x00, 0x3f, 0x00, 0x00,
       0xff, 0xff, 0x00, 0x00] [])) = [0x00, 0x03F, 0x100, 20] := by decide

/-- 2.3. -/
theorem test_decUdp :
    regsOf [.udpSport, .udpDport, .udpLen, .udpCsum, .payOff, .payLen] (exec .decUdp (inputState
      [0x30, 0x39, 0x00, 0x35, 0x00, 0x0f, 0xff, 0xff, 0x48, 0x69] [])) =
        [12345, 53, 0x0F, 0xFFFF, 0x108, 2] := by decide

/-- 2.3. -/
theorem test_decUdp_truncated :
    statusOf (exec .decUdp (start [(.inOff, 0x100), (.inLen, 7)])) = some 0x101 := by decide

/-- 2.3. -/
theorem test_decIcmp :
    regsOf [.icmpType, .icmpCode, .icmpCsum, .icmpId, .icmpSeq, .payOff, .payLen] (exec .decIcmp (inputState
      [0x00, 0x00, 0xed, 0xcb, 0x12, 0x34, 0xff, 0xff] [])) = [0, 0, 0xEDCB, 0x1234, 0xFFFF, 0x108, 0] := by decide

/-- 2.4. -/
theorem test_select :
    readsOf (step (host 8 32 .read ((start []).select .icmp))) = some [1] ∧
      readsOf (step (host 8 32 .read ((start []).select .tcp))) = some [6] ∧
      readsOf (step (host 8 32 .read ((start []).select .udp))) = some [17] := by decide

/-- W2. -/
theorem test_build_w2 :
    dstOf (exec .build ((payloadState hello [(.tcpFlags, 0x012)]).select .tcp)) = some (Memory.cells 0
      ([0xff, 0xff, 0xff, 0xff, 0xff, 0xff, 0x00, 0x11, 0x22, 0x33, 0x44, 0x55, 0x08, 0x00,
        0x45, 0x00, 0x00, 0x2d, 0xd4, 0x31, 0x00, 0x00, 0x40, 0x06, 0x22, 0xe4, 0xc0, 0xa8, 0x01, 0x64,
        0xc0, 0xa8, 0x01, 0x01, 0x30, 0x39, 0x00, 0x50, 0x00, 0x00, 0x00, 0x00, 0x00, 0x00, 0x00, 0x00,
        0x50, 0x12, 0xff, 0xff, 0xd7, 0xbc, 0x00, 0x00] ++ hello)) := by decide +kernel

/-- W5, through the host's CMD write. -/
theorem test_build_unselected :
    statusOf (step (State.reset.withFetchWord 32 0x40)) = some 0x102 := by decide

/-- 2.4. -/
theorem test_loadDefaults :
    regsOf [.ipTtl, .tcpFlags, .ethType, .payOff, .payLen, .csumAcc] (exec .loadDefaults ((start
      [(.ipTtl, 1), (.tcpFlags, 0x1FF), (.ethType, 0x86DD), (.payOff, 0x40), (.payLen, 5),
       (.csumAcc, 0x1234)]).select .tcp)) = [0x40, 0x002, 0x0800, 0, 0, 0x1234] := by decide

/-- 2.4: a default payload. -/
theorem test_loadDefaults_payload :
    (match exec .loadDefaults { State.resetWith ⟨0, 131072, [0x50, 0x47, 0x78, 0x78]⟩ with
        src := Memory.cells 0 [0x61, 0x62, 0x63, 0x64] } with
      | .next t => some (t.src, t.csr .payLen)
      | _ => none) = some (Memory.cells 0 [0x50, 0x47, 0x78, 0x78], 4) := by decide

/-! ## Host accesses (95_test_vectors.md 2.5) -/

theorem test_bus_errors :
    [(0x034, 32, BusOp.read), (0x004, 8, .read), (0x002, 32, .write 0), (0x004, 16, .read), (0x20000, 16, .read),
     (0x01000, 32, .read), (0x60000, 32, .read), (0x20002, 32, .read)].all
      (fun a => faultOf (step (host a.1 a.2.1 a.2.2 State.reset)) == some (.busError ⟨a.1, a.2.1, a.2.2⟩)) = true := by
  decide

theorem test_unwritten : faultOf (step (host 0x40000 8 .read State.reset)) = some (.noValue .dst 0) := by decide

theorem test_buffer_big_endian :
    readsOf (match step (host 0x20000 32 (.write 0x48656C6C) State.reset) with
      | .next t => step (host 0x20001 8 .read t)
      | o => o) = some [0x65] := by decide

theorem test_read_only_and_width :
    regsOf [.outLen] (step (host 0x00C 32 (.write 9) State.reset)) = [0] ∧
      regsOf [.csPlen] (step (host 0x028 32 (.write 0x12345) State.reset)) = [0x2345] := by decide

theorem test_clear_sticky :
    statusOf (step (host 4 32 (.write 0x100) { State.reset with errcode := some .unselectedProtocol, errSticky := true }))
      = some 2 := by decide

theorem test_in_reset :
    (match step { host 4 32 .read State.reset with resetIn := .asserted } with
      | .refused (.inReset _) => true
      | _ => false) = true := by decide

/-! ## Witnesses: each statement's hypotheses are met together, at the ends of their ranges -/

theorem holds_cells {s : State} {a : Nat} {bs : Bytes} (h : s.src = Memory.cells a bs) : s.Holds .src a bs := by
  intro i hi
  simp [State.buffer, h, Memory.byteAt_cells, hi]

/-- A state with a payload of `n` zero bytes, a selection and an IP_PROTO. -/
@[irreducible] def zeros (n : Nat) (t : TSel) (proto : Byte) : State :=
  { State.reset with
    src := Memory.cells 0 (List.replicate n 0), tsel := t,
    regs := { Regs.reset 0 with payLen := BitVec.ofNat 32 n, ipProto := proto } }

theorem zeros_params (n : Nat) (t : TSel) (proto : Byte) : (zeros n t proto).params = Params.standard := by
  unfold zeros; rfl

theorem zeros_tsel (n : Nat) (t : TSel) (proto : Byte) : (zeros n t proto).tsel = t := by unfold zeros; rfl

theorem zeros_proto (n : Nat) (t : TSel) (proto : Byte) : (zeros n t proto).regs.ipProto = proto := by
  unfold zeros; rfl

theorem zeros_payload {n : Nat} (h : n ≤ 131072) (t : TSel) (proto : Byte) :
    (zeros n t proto).PayloadIs (List.replicate n 0) := by
  unfold zeros
  have hl : (BitVec.ofNat 32 n).toNat = n := by
    rw [BitVec.toNat_ofNat]
    omega
  refine ⟨?_, by rw [List.length_replicate]; exact hl.symm, holds_cells rfl⟩
  show 0 + (BitVec.ofNat 32 n).toNat ≤ 131072
  omega

/-- The spec's BUF_BYTES against the length of such a payload. -/
theorem zeros_fits {a n : Nat} (t : TSel) (proto : Byte) (h : a + n ≤ 131072) :
    a + (List.replicate n (0 : Byte)).length ≤ (zeros n t proto).params.bufBytes := by
  rw [List.length_replicate, zeros_params]
  exact h

theorem zeros_exceeds {a n : Nat} (t : TSel) (proto : Byte) (h : 131072 < a + n) :
    (zeros n t proto).params.bufBytes < a + (List.replicate n (0 : Byte)).length := by
  rw [List.length_replicate, zeros_params]
  exact h

theorem zeros_bound {a n b : Nat} (h : a + n ≤ b) : a + (List.replicate n (0 : Byte)).length ≤ b := by
  rwa [List.length_replicate]

theorem zeros_past {a n b : Nat} (h : b < a + n) : b < a + (List.replicate n (0 : Byte)).length := by
  rwa [List.length_replicate]

/-- The two words of a command and its illegal twin. -/
theorem witness_illegalForms :
    [(0x01, 0x80000001), (0x02, 0x00000202), (0x03, 0x00000103), (0x04, 0x00000104), (0x30, 0x00000130),
      (0x31, 0x00000431), (0x32, 0x00010032), (0x41, 0x01000041)].all
      (fun x : Byte × Word => opField x.2 == x.1 && !legal x.2) = true := by decide

theorem witness_EncodeOfDecodedIsTheWord :
    decode 0x00FF0003 = .ok (.csumPseudo 255) ∧ decode 0x00000102 = .ok (.csumAdd .dst) := ⟨rfl, rfl⟩

theorem witness_LegalWordsAreTheCommands :
    legal 0x00000140 = false ∧ legal 0x00000042 = false ∧ legal 0x00FF0003 = true ∧
      ((0x00000041, 0xFFFFFFFF, 0x41) : Word × Word × Byte) ∈ opcodeMap := by decide

theorem witness_CmdWriteRunsDecodedCommand :
    decode 0x00000012 = .ok .encTcp ∧
      (host 0 32 (.write 0x00000012) State.reset).Issues ⟨State.reset.params.base, 32, .write 0x00000012⟩ [] :=
  ⟨rfl, rfl, rfl⟩

theorem witness_IllegalCmdWriteChangesOnlyStatus :
    legal 0x00000000 = false ∧
      (host 0 32 (.write 0) State.reset).Issues ⟨State.reset.params.base, 32, .write 0⟩ [] := ⟨rfl, rfl, rfl⟩

theorem witness_RegisterAccessByKind (v : Word) :
    (0x00C, Reg.outLen, RegAccess.ro, 32) ∈ registerTable ∧ (0x0EC, Reg.icmpSeq, RegAccess.rw, 16) ∈ registerTable ∧
      (host 0x00C 32 .read State.reset).Issues ⟨State.reset.params.base + 0x00C, 32, .read⟩ [] ∧
      (host 0x00C 32 (.write v) State.reset).Issues ⟨State.reset.params.base + 0x00C, 32, .write v⟩ [] ∧
      (host 0x0EC 32 (.write v) State.reset).Issues ⟨State.reset.params.base + 0x0EC, 32, .write v⟩ [] :=
  ⟨by decide, by decide, ⟨rfl, rfl⟩, ⟨rfl, rfl⟩, ⟨rfl, rfl⟩⟩

theorem witness_ControlRegisterAccess (v : Word) :
    (host 0 32 .read State.reset).Issues ⟨State.reset.params.base, 32, .read⟩ [] ∧
    (host 4 32 .read State.reset).Issues ⟨State.reset.params.base + 4, 32, .read⟩ [] ∧
    (host 4 32 (.write v) State.reset).Issues ⟨State.reset.params.base + 4, 32, .write v⟩ [] ∧
    (host 8 32 .read State.reset).Issues ⟨State.reset.params.base + 8, 32, .read⟩ [] ∧
    (host 8 32 (.write v) State.reset).Issues ⟨State.reset.params.base + 8, 32, .write v⟩ [] :=
  ⟨⟨rfl, rfl⟩, ⟨rfl, rfl⟩, ⟨rfl, rfl⟩, ⟨rfl, rfl⟩, ⟨rfl, rfl⟩⟩

/-- The last byte and the last word of SRC_BUF, read and written; the first of DST_BUF, read and written. -/
theorem witness_BufferAccess (v : Word) :
    let s : State := { State.reset with src := Memory.cells 131068 [1, 2, 3, 4], dst := Memory.cells 0 [5, 6, 7, 8] }
    s.params.Ok ∧ (131071 + 1 ≤ s.params.bufBytes ∧ s.Holds .src 131071 [4] ∧
      (host (0x20000 + 131071) 8 .read s).Issues ⟨s.params.base + bufferBase .src + 131071, 8, .read⟩ [] ∧
      (host (0x20000 + 131071) 8 (.write v) s).Issues ⟨s.params.base + bufferBase .src + 131071, 8, .write v⟩ []) ∧
    (131068 + 4 ≤ s.params.bufBytes ∧ 131068 % 4 = 0 ∧ s.Holds .src 131068 [1, 2, 3, 4] ∧
      (host (0x20000 + 131068) 32 .read s).Issues ⟨s.params.base + bufferBase .src + 131068, 32, .read⟩ [] ∧
      (host (0x20000 + 131068) 32 (.write v) s).Issues ⟨s.params.base + bufferBase .src + 131068, 32, .write v⟩ []) ∧
    (s.Holds .dst 0 [5] ∧ s.Holds .dst 0 [5, 6, 7, 8] ∧
      (host 0x40000 8 .read s).Issues ⟨s.params.base + bufferBase .dst + 0, 8, .read⟩ [] ∧
      (host 0x40000 32 (.write v) s).Issues ⟨s.params.base + bufferBase .dst + 0, 32, .write v⟩ []) := by
  refine ⟨by decide, ⟨by decide, by unfold State.Holds; decide, ⟨rfl, rfl⟩, ⟨rfl, rfl⟩⟩,
    ⟨by decide, by decide, by unfold State.Holds; decide, ⟨rfl, rfl⟩, ⟨rfl, rfl⟩⟩,
    ⟨by unfold State.Holds; decide, by unfold State.Holds; decide, ⟨rfl, rfl⟩, ⟨rfl, rfl⟩⟩⟩

/-- An access for each clause, at the ends of its range, for the smallest BUF_BYTES of R8. -/
theorem witness_BusErrors :
    ∀ x ∈ [(0x1000, 32), (0x1FFFF, 8), (0x60000, 8), (0x7FFFF, 8), (0x20000 + 65549, 8), (0x3FFFF, 8),
        (0x40000 + 65549, 8), (0x5FFFF, 8), (0x034, 32), (0xFFC, 32), (0x000, 8), (0x0F0, 16), (0x20000, 16),
        (0x20001, 32), (0x002, 32), (0x20000, 64), (0x40000, 0)],
      let s := host x.1 x.2 .read (State.resetWith ⟨0, 65549, []⟩)
      let off := x.1
      let width := x.2
      off < 0x80000 ∧ s.Issues ⟨s.params.base + off, width, .read⟩ [] ∧
        (0x1000 ≤ off ∧ off < 0x20000 ∨ 0x60000 ≤ off ∨
          0x20000 + s.params.bufBytes ≤ off ∧ off < 0x40000 ∨ 0x40000 + s.params.bufBytes ≤ off ∨
          off < 0x1000 ∧ off ∉ listedOffsets ∨ off < 0x1000 ∧ width ≠ 32 ∨ width = 16 ∨
          width = 32 ∧ off % 4 ≠ 0 ∨ width ≠ 8 ∧ width ≠ 16 ∧ width ≠ 32) := by
  unfold State.Issues
  decide

/-- The last byte of DST_BUF, and a word of SRC_BUF whose last byte alone holds no value. -/
theorem witness_UnwrittenByteReadFaults :
    let s : State := { State.reset with src := Memory.cells 0 [1, 2, 3] }
    s.params.Ok ∧ 131071 + 1 ≤ s.params.bufBytes ∧ s.Lacks .dst 131071 1 ∧
      (host (0x40000 + 131071) 8 .read s).Issues ⟨s.params.base + bufferBase .dst + 131071, 8, .read⟩ [] ∧
      0 + 4 ≤ s.params.bufBytes ∧ 0 % 4 = 0 ∧ s.Lacks .src 0 4 ∧
      (host 0x20000 32 .read s).Issues ⟨s.params.base + bufferBase .src + 0, 32, .read⟩ [] :=
  ⟨by decide, by decide, ⟨131071, by decide⟩, ⟨rfl, rfl⟩, by decide, rfl, ⟨3, by decide⟩, ⟨rfl, rfl⟩⟩

theorem witness_ReadsHaveNoSideEffect :
    ∃ t, (host 4 32 .read State.reset).pending = [.access ⟨State.reset.params.base + 4, 32, .read⟩] ∧
      step (host 4 32 .read State.reset) = .next t := ⟨_, rfl, rfl⟩

/-- Both ends of the window. -/
theorem witness_AccessInResetRefused :
    ∀ addr ∈ [0x80000, 0xFFFFF], let s := { State.resetWith ⟨0x80000, 131072, []⟩ with
        resetIn := .asserted, pending := [.access ⟨addr, 8, .read⟩] }
      s.resetIn = .asserted ∧ s.pending = [.access ⟨addr, 8, .read⟩] ∧ s.params.base ≤ addr ∧
        addr < s.params.base + 0x80000 := by decide

theorem witness_ReleaseOfResetLeavesResetState :
    let s := { payloadState hello [(.ipTtl, 1)] with resetIn := .asserted, pending := [HostOp.resetRelease] }
    s.resetIn = .asserted ∧ s.pending = [.resetRelease] := ⟨rfl, rfl⟩

theorem witness_AccumulatorIsOnesComplementSum :
    (wordsOf [0, 2, 0, 1]).Perm (wordsOf [0, 1, 0, 2]) ∧
      ([0, 1, 0, 2] : Bytes) = [0, 1] ++ [0, 2] ∧ ([0, 1] : Bytes).length % 2 = 0 :=
  ⟨List.Perm.swap _ _ _, rfl, rfl⟩

theorem witness_ChecksumInPlaceVerifies :
    ([0, 1] : Bytes).length % 2 = 0 ∧ (0xFFFC : Half) = inetCsum ([0, 1] ++ be16 0 ++ [0, 2]) ∧
      inetCsum ([0, 1] ++ be16 0 ++ [0xFF, 0xFE]) = 0 := by decide

theorem witness_EvenChunksChain : ([0, 1] : Bytes).length % 2 = 0 ∧ ([] : Bytes).length % 2 = 0 := ⟨rfl, rfl⟩

/-- One byte too many; an unwritten byte at the last offset; an empty and a full region in bounds. -/
theorem witness_CsumAddMeaning :
    (let s := start [(.csOff, 0x1FFFF), (.csLen, 2)];
      s.params.bufBytes < s.regs.csOff.toNat + s.regs.csLen.toNat) ∧
    (let s := start [(.csOff, 0x1FFFF), (.csLen, 1)];
      s.regs.csOff.toNat + s.regs.csLen.toNat ≤ s.params.bufBytes ∧
        s.Lacks .dst s.regs.csOff.toNat s.regs.csLen.toNat) ∧
    (let s := start [(.csOff, 0x20000)];
      s.regs.csOff.toNat + s.regs.csLen.toNat ≤ s.params.bufBytes ∧
        ([] : Bytes).length = s.regs.csLen.toNat ∧ s.Holds .src s.regs.csOff.toNat []) ∧
    (let s : State := { start [(.csOff, 0x1FFFD), (.csLen, 3)] with src := Memory.cells 0x1FFFD [1, 2, 3] };
      s.regs.csOff.toNat + s.regs.csLen.toNat ≤ s.params.bufBytes ∧
        ([1, 2, 3] : Bytes).length = s.regs.csLen.toNat ∧ s.Holds .src s.regs.csOff.toNat [1, 2, 3]) := by
  refine ⟨by decide, ⟨by decide, 0x1FFFF, by decide⟩, ⟨by decide, rfl, fun _ h => absurd h (by simp)⟩,
    by decide, rfl, by unfold State.Holds; decide⟩

/-- The longest payload ENC_ETH can write for the spec's BUF_BYTES, and the empty one. -/
theorem witness_EncEthMeaning :
    ∀ n ∈ [0, 131058], (zeros n .none 0).PayloadIs (List.replicate n 0) ∧
      14 + (List.replicate n (0 : Byte)).length ≤ (zeros n .none 0).params.bufBytes := by
  intro n hn
  have h : n ≤ 131058 := by simp at hn; omega
  exact ⟨zeros_payload (by omega) _ _, zeros_fits _ _ (by omega)⟩

/-- The longest payload of ENC_IPV4, for each protocol it knows. -/
theorem witness_EncIpv4Meaning :
    ∀ p ∈ [(1 : Byte), 6, 17], (zeros 65515 .none p).PayloadIs (List.replicate 65515 0) ∧
      protoAccepted .encIpv4 (zeros 65515 .none p) ∧ 20 + (List.replicate 65515 (0 : Byte)).length ≤ 0xFFFF ∧
        20 + (List.replicate 65515 (0 : Byte)).length ≤ (zeros 65515 .none p).params.bufBytes := by
  intro p hp
  refine ⟨zeros_payload (by decide) _ _, fun _ => ?_, zeros_bound (by decide), zeros_fits _ _ (by decide)⟩
  rw [zeros_proto]
  simpa using hp

/-- The longest payload of ENC_TCP, and the empty one. -/
theorem witness_EncTcpMeaning :
    ∀ n ∈ [0, 65515], (zeros n .none 0).PayloadIs (List.replicate n 0) ∧
      20 + (List.replicate n (0 : Byte)).length ≤ 0xFFFF ∧
      20 + (List.replicate n (0 : Byte)).length ≤ (zeros n .none 0).params.bufBytes := by
  intro n hn
  have h : n ≤ 65515 := by simp at hn; omega
  exact ⟨zeros_payload (by omega) _ _, zeros_bound (by omega), zeros_fits _ _ (by omega)⟩

/-- The longest payload of ENC_UDP, and the empty one. -/
theorem witness_EncUdpMeaning :
    ∀ n ∈ [0, 65527], (zeros n .none 0).PayloadIs (List.replicate n 0) ∧
      8 + (List.replicate n (0 : Byte)).length ≤ 0xFFFF ∧
      8 + (List.replicate n (0 : Byte)).length ≤ (zeros n .none 0).params.bufBytes := by
  intro n hn
  have h : n ≤ 65527 := by simp at hn; omega
  exact ⟨zeros_payload (by omega) _ _, zeros_bound (by omega), zeros_fits _ _ (by omega)⟩

/-- The longest payload ENC_ICMP can write for the spec's BUF_BYTES, and the empty one. -/
theorem witness_EncIcmpMeaning :
    ∀ n ∈ [0, 131064], (zeros n .none 0).PayloadIs (List.replicate n 0) ∧
      8 + (List.replicate n (0 : Byte)).length ≤ (zeros n .none 0).params.bufBytes := by
  intro n hn
  have h : n ≤ 131064 := by simp at hn; omega
  exact ⟨zeros_payload (by omega) _ _, zeros_fits _ _ (by omega)⟩

/-- Each error of the encode commands: a region that ends one byte too far; a protocol of 0 over unwritten bytes; an
unwritten byte; a length of 65536; an output of 131073 bytes; and, for the commands whose length is bounded, a
buffer of 4 bytes. -/
theorem witness_EncodeErrorsInOrder :
    (let s := start [(.payOff, 0x1FFFF), (.payLen, 2)];
      (Instr.encTcp, 20, true) ∈ encoders ∧ s.params.bufBytes < s.regs.payOff.toNat + s.regs.payLen.toNat) ∧
    (let s := start [(.payLen, 4)];
      (Instr.encIpv4, 20, true) ∈ encoders ∧ s.regs.payOff.toNat + s.regs.payLen.toNat ≤ s.params.bufBytes ∧
        ¬ protoAccepted .encIpv4 s ∧ protoAccepted .encUdp s ∧ s.Lacks .src s.regs.payOff.toNat s.regs.payLen.toNat) ∧
    ((zeros 65528 .none 0).PayloadIs (List.replicate 65528 0) ∧ (Instr.encUdp, 8, true) ∈ encoders ∧
      0xFFFF < 8 + (List.replicate 65528 (0 : Byte)).length) ∧
    ((zeros 131065 .none 0).PayloadIs (List.replicate 131065 0) ∧ (Instr.encIcmp, 8, false) ∈ encoders ∧
      (zeros 131065 .none 0).params.bufBytes < 8 + (List.replicate 131065 (0 : Byte)).length) ∧
    (let s : State := { start [(.payLen, 1)] with params := ⟨0, 4, []⟩, src := Memory.cells 0 [7] };
      s.PayloadIs [7] ∧ 20 + ([7] : Bytes).length ≤ 0xFFFF ∧ s.params.bufBytes < 20 + ([7] : Bytes).length) := by
  refine ⟨by decide, ⟨by decide, by decide, fun h => absurd (h rfl) (by decide),
    (show protoAccepted .encUdp _ from fun h => absurd h (by decide)), 0, by decide⟩,
    ⟨zeros_payload (by decide) _ _, by decide, zeros_past (by decide)⟩,
    ⟨zeros_payload (by decide) _ _, by decide, zeros_exceeds _ _ (by decide)⟩,
    ⟨by decide, rfl, by unfold State.Holds; decide⟩, by decide, by decide⟩

/-- What a concrete encode leaves: its outcome, no error, and the OUT_LEN bytes it wrote. -/
def Wrote (i : Instr) (s : State) (n : Nat) : Prop :=
  ∃ t out, exec i s = .next t ∧ t.errcode = none ∧ t.Holds .dst 0 out ∧ out.length = t.regs.outLen.toNat ∧ out.length = n

theorem witness_EncodedChecksumsVerify :
    Params.standard.Ok ∧ (payloadState hello [(.ipProto, 17)]).params = Params.standard ∧
    Wrote .encIpv4 (payloadState hello [(.ipProto, 17)]) 25 ∧ Wrote .encTcp (payloadState hello []) 25 ∧
    Wrote .encUdp (payloadState hello []) 13 ∧ Wrote .encIcmp (payloadState hello []) 13 := by
  refine ⟨by decide, rfl, ?_, ?_, ?_, ?_⟩
  · exact ⟨_, [0x45, 0x00, 0x00, 0x19, 0xd4, 0x31, 0x00, 0x00, 0x40, 0x11, 0x22, 0xed, 0xc0, 0xa8, 0x01, 0x64,
      0xc0, 0xa8, 0x01, 0x01, 0x48, 0x65, 0x6c, 0x6c, 0x6f], rfl, rfl, by unfold State.Holds; decide, rfl, rfl⟩
  · exact ⟨_, [0x30, 0x39, 0x00, 0x50, 0x00, 0x00, 0x00, 0x00, 0x00, 0x00, 0x00, 0x00, 0x50, 0x02, 0xff, 0xff,
      0xd7, 0xcc, 0x00, 0x00, 0x48, 0x65, 0x6c, 0x6c, 0x6f], rfl, rfl, by unfold State.Holds; decide, rfl, rfl⟩
  · exact ⟨_, [0x30, 0x39, 0x00, 0x35, 0x00, 0x0d, 0x27, 0xde, 0x48, 0x65, 0x6c, 0x6c, 0x6f], rfl, rfl,
      by unfold State.Holds; decide, rfl, rfl⟩
  · exact ⟨_, [0x08, 0x00, 0xd4, 0x2b, 0x00, 0x01, 0x00, 0x01, 0x48, 0x65, 0x6c, 0x6c, 0x6f], rfl, rfl,
      by unfold State.Holds; decide, rfl, rfl⟩

/-- The zero rule's own case, alone and in a frame. -/
theorem witness_UdpChecksumNeverZero :
    (∃ t, exec .encUdp (payloadState [0x4b, 0xb6] []) = .next t ∧ t.errcode = none ∧ t.regs.udpCsum = 0xFFFF) ∧
    (∃ t, ((payloadState [0x4b, 0xb6] []).select .udp).tsel = .udp ∧
      exec .build ((payloadState [0x4b, 0xb6] []).select .udp) = .next t ∧ t.errcode = none) :=
  ⟨⟨_, rfl, rfl, by decide⟩, _, rfl, rfl, rfl⟩

/-- The state a copy of the output makes of `t`, with the input region at offset 0x200. -/
def copied (t : State) (out : Bytes) : State :=
  { t with src := t.src.writeBytes 0x200 out, regs := { t.regs with inOff := 0x200, inLen := t.regs.outLen } }

/-- Every encode command, on an empty payload. -/
theorem witness_EncodeThenDecodeReproducesFields :
    ∀ i ∈ [Instr.encEth, .encIpv4, .encTcp, .encUdp, .encIcmp], ∃ t out,
      exec i (start [(.ipProto, 6), (.tcpSport, 0), (.udpDport, 0xFFFF), (.ipTtl, 255)]) = .next t ∧
        t.errcode = none ∧ t.params.Ok ∧ CopiedBack t (copied t out) := by
  have h : ∀ i ∈ [Instr.encEth, .encIpv4, .encTcp, .encUdp, .encIcmp], ∀ t,
      exec i (start [(.ipProto, 6), (.tcpSport, 0), (.udpDport, 0xFFFF), (.ipTtl, 255)]) = .next t →
        t.dst = Memory.cells 0 (t.dst.map Prod.snd) ∧ t.src = [] ∧ t.errcode = none ∧ t.params = Params.standard ∧
          (t.dst.map Prod.snd).length = t.regs.outLen.toNat ∧ t.regs.outLen.toNat ≤ 100 := by
    intro i hi t ht
    simp only [List.mem_cons, List.not_mem_nil, or_false] at hi
    rcases hi with rfl | rfl | rfl | rfl | rfl <;> cases ht <;> decide
  have hn : ∀ i ∈ [Instr.encEth, .encIpv4, .encTcp, .encUdp, .encIcmp], ∃ t,
      exec i (start [(.ipProto, 6), (.tcpSport, 0), (.udpDport, 0xFFFF), (.ipTtl, 255)]) = .next t := by
    intro i hi
    simp only [List.mem_cons, List.not_mem_nil, or_false] at hi
    rcases hi with rfl | rfl | rfl | rfl | rfl <;> exact ⟨_, rfl⟩
  intro i hi
  obtain ⟨t, ht⟩ := hn i hi
  obtain ⟨h1, -, h3, h4, h5, h6⟩ := h i hi t ht
  refine ⟨t, t.dst.map Prod.snd, ht, h3, by rw [h4]; decide, rfl, rfl, ?_, fun k hk => ?_⟩
  · show 0x200 + t.regs.outLen.toNat ≤ t.params.bufBytes
    rw [h4]
    show _ ≤ 131072
    omega
  · show (t.src.writeBytes 0x200 (t.dst.map Prod.snd)).byteAt (0x200 + k) = t.dst.byteAt k
    rw [Memory.byteAt_writeBytes, if_pos (by rw [h5]; omega), Nat.add_sub_cancel_left]
    rw [show t.dst.byteAt k = (Memory.cells 0 (t.dst.map Prod.snd)).byteAt k by rw [← h1], Memory.byteAt_cells]
    simp

/-- The shortest input of each decode command. -/
theorem witness_DecodeMeanings :
    ∀ n ∈ [8, 14, 20], (inputState (List.replicate n 0) []).InputIs (List.replicate n 0) ∧
      n ≤ (List.replicate n (0 : Byte)).length := by
  have h : ∀ n ∈ [8, 14, 20], (inputState (List.replicate n 0) []).regs.inOff.toNat +
      (inputState (List.replicate n 0) []).regs.inLen.toNat ≤ 131072 ∧
      (List.replicate n (0 : Byte)).length = (inputState (List.replicate n 0) []).regs.inLen.toNat := by decide
  exact fun n hn => ⟨⟨(h n hn).1, (h n hn).2, holds_cells rfl⟩, Nat.le_of_eq List.length_replicate.symm⟩

/-- IHL 0 and IHL 15, data offset 0 and data offset 15, over 22 bytes. -/
theorem witness_DecodeHeaderLengths :
    ∀ b ∈ [(0x40 :: List.replicate 21 0 : Bytes), 0x4f :: List.replicate 21 0,
        List.replicate 12 0 ++ 0x00 :: List.replicate 9 0, List.replicate 12 0 ++ 0xf0 :: List.replicate 9 0],
      (inputState b []).InputIs b ∧ 20 ≤ b.length := by
  intro b hb
  have hl : b.length = 22 := by
    simp only [List.mem_cons, List.not_mem_nil, or_false] at hb
    rcases hb with rfl | rfl | rfl | rfl <;> rfl
  have ho : (inputState b []).regs.inOff.toNat + 22 ≤ 131072 := (by decide : 0x100 + 22 ≤ 131072)
  have hr : (inputState b []).regs.inLen.toNat = b.length := by
    show (BitVec.setWidth 32 (BitVec.ofNat 32 b.length)).toNat = b.length
    rw [hl]
    rfl
  exact ⟨⟨by rw [hr, hl]; exact ho, hr.symm, holds_cells rfl⟩, by omega⟩

/-- Each error of the decode commands: a region one byte too far; one byte too short; an unwritten byte. -/
theorem witness_DecodeErrorsInOrder :
    ∀ row ∈ decoders,
      (let s := start [(.inOff, 0x1FFFF), (.inLen, 2)];
        s.params.bufBytes < s.regs.inOff.toNat + s.regs.inLen.toNat) ∧
      (let s := start [(.inLen, BitVec.ofNat 32 (row.2 - 1))];
        s.regs.inOff.toNat + s.regs.inLen.toNat ≤ s.params.bufBytes ∧ s.regs.inLen.toNat < row.2) ∧
      (let s := start [(.inLen, BitVec.ofNat 32 row.2)];
        s.regs.inOff.toNat + s.regs.inLen.toNat ≤ s.params.bufBytes ∧ row.2 ≤ s.regs.inLen.toNat ∧
          s.src.byteAt 0 = none ∧ s.regs.inOff.toNat = 0) := by decide +kernel

/-- The longest payload of BUILD under each selection. -/
theorem witness_BuildMeanings :
    ((zeros 65495 .tcp 0).tsel = .tcp ∧ (zeros 65495 .tcp 0).PayloadIs (List.replicate 65495 0) ∧
      40 + (List.replicate 65495 (0 : Byte)).length ≤ 0xFFFF ∧
      54 + (List.replicate 65495 (0 : Byte)).length ≤ (zeros 65495 .tcp 0).params.bufBytes) ∧
    ∀ t ∈ [TSel.udp, .icmp], (zeros 65507 t 0).tsel = t ∧ (zeros 65507 t 0).PayloadIs (List.replicate 65507 0) ∧
      28 + (List.replicate 65507 (0 : Byte)).length ≤ 0xFFFF ∧
      42 + (List.replicate 65507 (0 : Byte)).length ≤ (zeros 65507 t 0).params.bufBytes :=
  ⟨⟨zeros_tsel _ _ _, zeros_payload (by decide) _ _, zeros_bound (by decide), zeros_fits _ _ (by decide)⟩,
    fun _ _ => ⟨zeros_tsel _ _ _, zeros_payload (by decide) _ _, zeros_bound (by decide), zeros_fits _ _ (by decide)⟩⟩

/-- Each error of BUILD: no selection; a region too far; an unwritten byte; one byte over the limit of each
transport. -/
theorem witness_BuildErrorsInOrder :
    (start []).tsel = .none ∧
    (let s := (start [(.payOff, 0x1FFFF), (.payLen, 2)]).select .udp;
      s.tsel ≠ .none ∧ s.params.bufBytes < s.regs.payOff.toNat + s.regs.payLen.toNat) ∧
    (let s := (start [(.payLen, 1)]).select .icmp;
      s.tsel ≠ .none ∧ s.regs.payOff.toNat + s.regs.payLen.toNat ≤ s.params.bufBytes ∧
        s.Lacks .src s.regs.payOff.toNat s.regs.payLen.toNat) ∧
    ((zeros 65496 .tcp 0).tsel ≠ .none ∧ (zeros 65496 .tcp 0).PayloadIs (List.replicate 65496 0) ∧
      65495 < (List.replicate 65496 (0 : Byte)).length) ∧
    ((zeros 65508 .icmp 0).tsel ≠ .none ∧ (zeros 65508 .icmp 0).PayloadIs (List.replicate 65508 0) ∧
      65507 < (List.replicate 65508 (0 : Byte)).length) := by
  refine ⟨rfl, by decide, ⟨by decide, by decide, 0, by decide⟩,
    ⟨by rw [zeros_tsel]; decide, zeros_payload (by decide) _ _, ?_⟩,
    ⟨by rw [zeros_tsel]; decide, zeros_payload (by decide) _ _, ?_⟩⟩ <;>
  · rw [List.length_replicate]
    decide

/-- Both sides of the limit, under TCP and under UDP. -/
theorem witness_BuildLengthLimit :
    ∀ n ∈ [(65495, TSel.tcp), (65496, .tcp), (65507, .udp), (65508, .udp)],
      (zeros n.1 n.2 0).params.Ok ∧ (zeros n.1 n.2 0).tsel ≠ .none ∧ (zeros n.1 n.2 0).PayloadIs (List.replicate n.1 0) := by
  intro n hn
  have h : ∀ n ∈ [(65495, TSel.tcp), (65496, .tcp), (65507, .udp), (65508, .udp)], n.1 ≤ 131072 ∧ n.2 ≠ .none := by
    decide
  rw [zeros_params, zeros_tsel]
  exact ⟨by decide, (h n hn).2, zeros_payload (h n hn).1 _ _⟩

/-- The default ICMP frame. -/
theorem witness_BuiltFrameLayout :
    ∀ i ∈ [TSel.tcp, .udp, .icmp], ∃ t, ((start []).select i).params.Ok ∧
      exec .build ((start []).select i) = .next t ∧ t.errcode = none ∧
      ((start []).select i).PayloadIs [] ∧ t.Holds .dst 0 (t.dst.map Prod.snd) ∧
      (t.dst.map Prod.snd).length = t.regs.outLen.toNat := by
  intro i hi
  simp only [List.mem_cons, List.not_mem_nil, or_false] at hi
  rcases hi with rfl | rfl | rfl <;>
    exact ⟨_, by decide, rfl, rfl, ⟨by decide, rfl, fun _ h => absurd h (Nat.not_lt_zero _)⟩,
      by unfold State.Holds; decide, rfl⟩

/-- A BUILD that succeeds and one that fails. -/
theorem witness_SecondBuildIsTheSame :
    (∃ t, exec .build ((start []).select .tcp) = .next t ∧ t.errcode = none) ∧
      ∃ t, exec .build (start []) = .next t ∧ t.errcode = some .unselectedProtocol := ⟨⟨_, rfl, rfl⟩, _, rfl, rfl⟩

/-- The default frame of each transport, copied back. -/
theorem witness_BuiltFrameDecodesLayerByLayer :
    ∃ t d fields results, ((start []).select .udp).params.Ok ∧ exec .build ((start []).select .udp) = .next t ∧
      t.errcode = none ∧ CopiedBack t (copied t (t.dst.map Prod.snd)) ∧
      transportDecode ((start []).select .udp).tsel = some (d, fields, results) := by
  refine ⟨_, _, _, _, by decide, rfl, rfl, ⟨rfl, rfl, by decide, ?_⟩, rfl⟩
  decide +kernel

/-- The bounds of R8 on both sides, and both starts. -/
theorem witness_DefaultsBuildUnderEverySelection :
    (Params.mk 0x80000 65549 (List.replicate 65495 0)).Ok ∧ (Params.mk 0 131072 []).Ok ∧
      ∃ s, (payloadState hello [(.ipTtl, 1)]).params = Params.standard ∧
        exec .loadDefaults (payloadState hello [(.ipTtl, 1)]) = .next s := by
  refine ⟨⟨by decide, by decide, by decide, ?_⟩, by decide, _, rfl, rfl⟩
  exact Nat.le_of_eq List.length_replicate

/-- Every command answers a next state somewhere: the ones that read no buffer right after reset, the others
on an empty payload or on a region of 20 bytes. -/
theorem witness_CommandNext :
    ∀ i ∈ [Instr.csumClear, .csumAdd .src, .csumAdd .dst, .csumPseudo 6, .csumFinal true, .encEth, .encIpv4, .encTcp,
        .encUdp, .encIcmp, .decEth, .decIpv4, .decTcp, .decUdp, .decIcmp, .selIcmp, .selTcp, .selUdp, .build,
        .loadDefaults],
      (inputState (List.replicate 20 0) []).params.Ok ∧
        ∃ t, exec i (inputState (List.replicate 20 0) [(.ipProto, 1)]) = .next t := by
  refine fun i hi => ⟨(by decide : Params.standard.Ok), ?_⟩
  simp only [List.mem_cons, List.not_mem_nil, or_false] at hi
  rcases hi with rfl | rfl | rfl | rfl | rfl | rfl | rfl | rfl | rfl | rfl | rfl | rfl | rfl | rfl | rfl | rfl |
    rfl | rfl | rfl | rfl <;> exact ⟨_, rfl⟩

/-- A command that meets a byte with no value. -/
theorem witness_CommandFault : exec .encEth (start [(.payLen, 1)]) = .fault (.noValue .src 0) := rfl

/-- An illegal word (R268's two examples), and each of the three ways a word can end. -/
theorem witness_CommandIsAllOrNothing :
    legal 0x00000000 = false ∧ legal 0x00000140 = false ∧ (∃ t, runCommand 0x01 State.reset = .next t ∧ t.errcode = none) ∧
      (∃ t, runCommand 0x40 State.reset = .next t ∧ t.errcode = some .unselectedProtocol) ∧
      runCommand 0x10 (start [(.payLen, 1)]) = .fault (.noValue .src 0) :=
  ⟨by decide, by decide, ⟨_, rfl, rfl⟩, ⟨_, rfl, rfl⟩, rfl⟩

/-- The two ways ERR_STICKY is cleared. -/
theorem witness_StickyErrorStays :
    (∃ t, (host 4 32 (.write 0x100) { State.reset with errSticky := true }).errSticky = true ∧
      step (host 4 32 (.write 0x100) { State.reset with errSticky := true }) = .next t ∧ t.errSticky = false) ∧
    (∃ t, step { State.reset with errSticky := true, resetIn := .asserted, pending := [.resetRelease] } = .next t ∧
      t.errSticky = false) := ⟨⟨_, rfl, rfl, rfl⟩, _, rfl, rfl⟩

theorem witness_AccumulatorUnusedOutsideChecksumCommands :
    isChecksum .build = false ∧ isChecksum .decTcp = false ∧ isChecksum .loadDefaults = false ∧
      isChecksum .encEth = false := ⟨rfl, rfl, rfl, rfl⟩

/-- A state that meets both invariants and steps to a next state: BUILD, then reading nothing more. -/
theorem witness_StepKeepsInvariants :
    let s := host 0 32 (.write 0x40) ((payloadState hello []).select .tcp)
    s.Inv ∧ s.OutputHeld ∧ ∃ t, step s = .next t ∧ t.regs.outLen = 59 :=
  ⟨by decide, ⟨by decide, fun _ h => absurd h (Nat.not_lt_zero _)⟩, _, rfl, by decide⟩

theorem witness_ResetMeetsInvariants :
    (Params.mk 0 65549 []).Ok ∧ (Params.mk 0x100000 131072 hello).Ok := by decide

end Sys2Proof.Tests
end

section
/-! Reading a byte string at the place where a part of it stands (00_scope.md R12): a primitive that asks only for
bytes of the part `b` of `x ++ b ++ y` answers as it does on `b` alone. -/

namespace Sys2Proof.Machine

open Sys2Proof

theorem rd8_of_part (x y : Bytes) {b : Bytes} {i : Nat} (h : i < b.length) :
    rd8 (x ++ b ++ y) (x.length + i) = rd8 b i := by
  have hx : x.length ≤ x.length + i := Nat.le_add_right _ _
  simp only [rd8, List.getD_eq_getElem?_getD, List.append_assoc, List.getElem?_append_right hx,
    Nat.add_sub_cancel_left, List.getElem?_append_left h]

theorem rd16_of_part (x y : Bytes) {b : Bytes} {i : Nat} (h : i + 1 < b.length) :
    rd16 (x ++ b ++ y) (x.length + i) = rd16 b i := by
  rw [rd16, Nat.add_assoc, rd8_of_part x y (Nat.lt_of_succ_lt h), rd8_of_part x y h, rd16]

theorem rd32_of_part (x y : Bytes) {b : Bytes} {i : Nat} (h : i + 3 < b.length) :
    rd32 (x ++ b ++ y) (x.length + i) = rd32 b i := by
  rw [rd32, Nat.add_assoc, rd16_of_part x y (by omega), rd16_of_part x y (by omega), rd32]

@[simp] theorem rd16_be16 (v : Half) : rd16 (be16 v) 0 = v := half_be16 v

@[simp] theorem rd32_be32 (v : Word) : rd32 (be32 v) 0 = v := half_be32 v

/-- Two joined bytes are a big-endian number. -/
theorem half_toNat (hi lo : Byte) : (half hi lo).toNat = hi.toNat * 256 + lo.toNat := by
  rw [half, BitVec.toNat_append, ← Nat.shiftLeft_add_eq_or_of_lt lo.isLt, Nat.shiftLeft_eq]

/-- Settles O15: each primitive reads the part it asks for, and `half` joins what `be16` and `be32` cut. -/
theorem wirePrimitivesReadBack : Obligations.WirePrimitivesReadBack := by
  intro x y h w
  refine ⟨?_, ?_, fun a b => ?_⟩
  · exact (rd16_of_part x y (i := 0) (b := be16 h) (by simp)).trans (rd16_be16 h)
  · exact (rd32_of_part x y (i := 0) (b := be32 w) (by simp)).trans (rd32_be32 w)
  · have hread : rd16 (x ++ [a, b] ++ y) x.length = half a b :=
      rd16_of_part x y (i := 0) (b := [a, b]) (by simp)
    rw [hread, half_toNat]

end Sys2Proof.Machine
end

section
/-! What a command and a step of the host can leave, said once, with the guards (60_exceptions.md R266;
10_state.md R22; 20_memory.md R72 to R74; 70_reset_and_hazards.md R290). -/

namespace Sys2Proof.Machine

open Sys2Proof

/-- The ways a command writes its outputs (R266), before the success is recorded in STATUS. -/
inductive CommandWrites (s : State) : State → Prop where
  /-- The checksum and decode commands: registers, and never OUT_LEN. -/
  | registers (upd : Updates) (h : ∀ e ∈ upd, e.1 ≠ .outLen) : CommandWrites s (s.commit upd)
  /-- The selects: TSEL alone. -/
  | select (sel : TSel) : CommandWrites s (s.select sel)
  /-- The encode commands and BUILD: result registers, and the output with its length (R170, R240). -/
  | output (out : Bytes) (res : Updates) (h : out.length ≤ s.params.bufBytes) :
      CommandWrites s (memWrite (s.commit (res ++ [(.outLen, BitVec.ofNat 32 out.length)])) .dst 0 out)
  /-- LOAD_DEFAULTS (R251). -/
  | defaults : CommandWrites s
      (memWrite ((s.commit (defaultUpdates s.params)).select .none) .src 0 s.params.defaultPayload)

section Bodies

variable {s u : State}

theorem csumAddBody_writes {buf : Buf} (h : csumAddBody buf s = .done u) : CommandWrites s u := by
  obtain ⟨-, he⟩ | ⟨-, f, -, he⟩ | ⟨-, b, -, he⟩ := csumAddBody_cases buf s <;> rw [he] at h <;> cases h
  exact .registers _ (by simp)

theorem emit_writes {layer : Layer} (h : emit s layer = .done u) : CommandWrites s u := by
  obtain ⟨out, res, -, hle, rfl⟩ := emit_eq_done h
  exact .output out res hle

theorem encodeBody_writes {protoOk : Bool} {layer : Bytes → Layer} (h : encodeBody s protoOk layer = .done u) :
    CommandWrites s u := by
  obtain ⟨-, he⟩ | ⟨-, -, he⟩ | ⟨-, -, f, -, he⟩ | ⟨-, -, pay, -, he⟩ := encodeBody_cases s protoOk layer <;>
    rw [he] at h
  · cases h
  · cases h
  · cases h
  · exact emit_writes h

theorem buildBody_writes (h : buildBody s = .done u) : CommandWrites s u := by
  obtain ⟨-, he⟩ | ⟨-, -, he⟩ | ⟨-, -, f, -, he⟩ | ⟨-, -, pay, -, he⟩ := buildBody_cases s <;> rw [he] at h
  · cases h
  · cases h
  · cases h
  · exact emit_writes h

theorem payloadRegion_ne_outLen (s : State) (hl : Nat) : ∀ e ∈ payloadRegion s hl, e.1 ≠ .outLen := by
  simp [payloadRegion]

theorem decodeBody_writes {minLen : Nat} {layer : Bytes → Updates × Nat}
    (hl : ∀ b, ∀ e ∈ (layer b).1, e.1 ≠ .outLen) (h : decodeBody s minLen layer = .done u) :
    CommandWrites s u := by
  obtain ⟨-, he⟩ | ⟨-, -, he⟩ | ⟨-, -, f, -, he⟩ | ⟨-, -, b, -, he⟩ := decodeBody_cases s minLen layer <;>
    rw [he] at h <;> cases h
  exact .registers _ (List.forall_mem_append.2 ⟨hl b, payloadRegion_ne_outLen s _⟩)

end Bodies

/-- The next states of a command: its outputs and a success, or an error alone (R266). -/
inductive CommandLeaves (s : State) : State → Prop where
  | success {u : State} (h : CommandWrites s u) : CommandLeaves s u.succeed
  | failure (e : Err) : CommandLeaves s (s.raise e)

section Commands

variable {s t u : State}

theorem finish_leaves {body : Ending} (h : finish s body = .next t)
    (hw : ∀ u, body = .done u → CommandWrites s u) : CommandLeaves s t := by
  obtain ⟨u, hu, rfl⟩ | ⟨e, -, rfl⟩ := (finish_eq_next_iff s t body).1 h
  · exact .success (hw u hu)
  · exact .failure e

theorem finish_done_leaves (h : finish s (.done u) = .next t) (hw : CommandWrites s u) : CommandLeaves s t :=
  finish_leaves h fun _ he => Ending.done.inj he ▸ hw

theorem exec_leaves {i : Instr} (h : exec i s = .next t) : CommandLeaves s t := by
  cases i with
  | csumClear | csumPseudo | csumFinal => exact finish_done_leaves h (.registers _ (by simp))
  | csumAdd buf => exact finish_leaves h fun _ => csumAddBody_writes
  | encEth | encIpv4 | encTcp | encUdp | encIcmp => exact finish_leaves h fun _ => encodeBody_writes
  | decEth => exact finish_leaves h fun _ => decodeBody_writes (by simp [gEth])
  | decIpv4 => exact finish_leaves h fun _ => decodeBody_writes (by simp [gIpv4])
  | decTcp => exact finish_leaves h fun _ => decodeBody_writes (by simp [gTcp])
  | decUdp => exact finish_leaves h fun _ => decodeBody_writes (by simp [gUdp])
  | decIcmp => exact finish_leaves h fun _ => decodeBody_writes (by simp [gIcmp])
  | selIcmp | selTcp | selUdp => exact finish_done_leaves h (.select _)
  | build => exact finish_leaves h fun _ => buildBody_writes
  | loadDefaults => exact finish_done_leaves h .defaults

/-- A CMD write leaves what its command leaves; an illegal word is the error ILLEGAL_COMMAND (R268). -/
theorem runCommand_leaves {w : Word} (h : runCommand w s = .next t) : CommandLeaves s t := by
  unfold runCommand at h
  split at h
  · cases h; exact .failure _
  · exact exec_leaves h

end Commands

/-- What one operation of the host can leave (R22, R72, R81, R290), in the state in which it begins. -/
inductive HostWrites (s : State) : State → Prop where
  | command {w : Word} {t : State} (h : runCommand w s = .next t) : HostWrites s t
  | status (v : Word) : HostWrites s (s.writeStatus v)
  | register (r : Reg) (v : Word) (h : r.kind = .rw) : HostWrites s (s.commit [(r, v)])
  | readOnly : HostWrites s s
  | read (v : Word) : HostWrites s (s.returned v)
  | buffer (buf : Buf) (off : Nat) (bs : Bytes) (h : off + bs.length ≤ s.params.bufBytes) :
      HostWrites s (memWrite s buf off bs)
  | resetAssert : HostWrites s s.assertReset
  | resetRelease : HostWrites s s.releaseReset

section Host

variable {s t : State} {a : Access} {off : Nat}

theorem writeSlot_writes {slot : Slot} {v : Word} (h : writeSlot slot v s = .next t) : HostWrites s t := by
  cases slot with
  | cmd => exact .command h
  | status => cases h; exact .status v
  | tsel => cases h; exact .readOnly
  | reg r =>
    simp only [writeSlot] at h
    split at h
    next hk => cases h; exact .register r v hk
    next => cases h; exact .readOnly

theorem regAccess_writes (h : regAccess a off s = .next t) : HostWrites s t := by
  unfold regAccess at h
  split at h
  · split at h
    · cases h
    · split at h
      · cases h; exact .read _
      · exact writeSlot_writes h
  · cases h

theorem bufBytesAccess_writes {buf : Buf} {n : Nat} {value : Bytes → Word} {bytes : Word → Bytes}
    (hlen : ∀ v, (bytes v).length = n) (h : bufBytesAccess a buf off n value bytes s = .next t) :
    HostWrites s t := by
  unfold bufBytesAccess at h
  split at h
  next hin =>
    split at h
    · split at h
      · cases h
      · cases h; exact .read _
    next v _ =>
      cases h
      exact .buffer buf off _ (hlen v ▸ (inBounds_iff s off n).1 hin)
  · cases h

theorem bufAccess_writes {buf : Buf} (h : bufAccess a buf off s = .next t) : HostWrites s t := by
  unfold bufAccess at h
  split at h
  · exact bufBytesAccess_writes (fun _ => List.length_singleton) h
  · split at h
    · exact bufBytesAccess_writes be32_length h
    · cases h

theorem windowAccess_writes (h : windowAccess a off s = .next t) : HostWrites s t := by
  unfold windowAccess at h
  split at h
  · exact regAccess_writes h
  · split at h
    · exact bufAccess_writes h
    · split at h
      · exact bufAccess_writes h
      · cases h

theorem busAccess_writes (h : busAccess a s = .next t) : HostWrites s t := by
  unfold busAccess at h
  split at h
  · split at h
    · cases h
    · exact windowAccess_writes h
  · cases h

theorem hostOp_writes {op : HostOp} (h : hostOp op s = .next t) : HostWrites s t := by
  cases op with
  | access a => exact busAccess_writes h
  | resetAssert => cases h; exact .resetAssert
  | resetRelease => cases h; exact .resetRelease

/-- The next states of a step: the same state when the host is idle, or what its next operation leaves (R85). -/
theorem step_eq_next (h : step s = .next t) :
    (s.pending = [] ∧ t = s) ∨ ∃ op rest, s.pending = op :: rest ∧ HostWrites { s with pending := rest } t := by
  unfold step hostStep at h
  split at h
  next hp => cases h; exact .inl ⟨hp, rfl⟩
  next op rest hp => exact .inr ⟨op, rest, hp, hostOp_writes h⟩

end Host

end Sys2Proof.Machine
end

section
/-! The invariant of the machine: it holds after reset, every write inside the bounds keeps it, and so every command
and every step does (00_scope.md R8; 20_memory.md R71, R78). -/

namespace Sys2Proof.Machine

open Sys2Proof

theorem Memory.sound_cells {size : Nat} {bs : Bytes} (h : bs.length ≤ size) : (Memory.cells 0 bs).Sound size :=
  ⟨Memory.wf_cells bs 0, fun c hc => by have := Memory.cells_bounds hc; omega⟩

/-- DEFAULT_PAYLOAD fits a buffer within the bounds of R8. -/
theorem Params.defaultPayload_fits {p : Params} (h : p.Ok) : p.defaultPayload.length ≤ p.bufBytes := by
  obtain ⟨-, hmin, -, hpay⟩ := h
  omega

theorem inv_resetWith {p : Params} (h : p.Ok) : (State.resetWith p).Inv :=
  ⟨h, Memory.sound_cells (Params.defaultPayload_fits h), List.Pairwise.nil, nofun⟩

section Keeps

variable {s t : State}

/-- The invariant speaks of the parameters and the two buffers alone. -/
theorem inv_of_same_buffers (h : s.Inv) (hp : t.params = s.params) (hs : t.src = s.src) (hd : t.dst = s.dst) :
    t.Inv := by
  rwa [State.Inv, hp, hs, hd]

theorem inv_commit (h : s.Inv) (upd : Updates) : (s.commit upd).Inv := inv_of_same_buffers h rfl rfl rfl

theorem inv_select (h : s.Inv) (sel : TSel) : (s.select sel).Inv := inv_of_same_buffers h rfl rfl rfl

theorem inv_memWrite (h : s.Inv) (buf : Buf) {off : Nat} {bs : Bytes} (hle : off + bs.length ≤ s.params.bufBytes) :
    (memWrite s buf off bs).Inv := by
  obtain ⟨hp, hs, hd⟩ := h
  cases buf with
  | src => exact ⟨hp, Memory.sound_writeBytes hs hle, hd⟩
  | dst => exact ⟨hp, hs, Memory.sound_writeBytes hd hle⟩

theorem inv_releaseReset (h : s.Inv) : s.releaseReset.Inv := by
  unfold State.releaseReset
  split
  · exact inv_of_same_buffers (inv_resetWith h.1) rfl rfl rfl
  · exact h

theorem inv_commandWrites (h : s.Inv) (hw : CommandWrites s t) : t.Inv := by
  cases hw with
  | registers upd => exact inv_commit h upd
  | select sel => exact inv_select h sel
  | output out res hle =>
    have hc := inv_commit h (res ++ [(.outLen, BitVec.ofNat 32 out.length)])
    exact inv_memWrite hc .dst (by simpa using hle)
  | defaults =>
    have hc := inv_select (inv_commit h (defaultUpdates s.params)) .none
    exact inv_memWrite hc .src (by simpa using Params.defaultPayload_fits h.1)

theorem inv_runCommand {w : Word} (h : s.Inv) (hr : runCommand w s = .next t) : t.Inv := by
  cases runCommand_leaves hr with
  | success hw => exact inv_of_same_buffers (inv_commandWrites h hw) rfl rfl rfl
  | failure e => exact inv_of_same_buffers h rfl rfl rfl

theorem inv_hostWrites (h : s.Inv) (hw : HostWrites s t) : t.Inv := by
  cases hw with
  | command hr => exact inv_runCommand h hr
  | buffer buf off bs hle => exact inv_memWrite h buf hle
  | resetRelease => exact inv_releaseReset h
  | readOnly => exact h
  | status | register | read | resetAssert => exact inv_of_same_buffers h (by simp) (by simp) (by simp)

end Keeps

/-- Settles O58: a step is idle or performs one host operation, and each way an operation writes keeps the invariant. -/
theorem stepKeepsInvariant : Obligations.StepKeepsInvariant := by
  intro s t h hstep
  obtain ⟨-, rfl⟩ | ⟨op, rest, -, hw⟩ := step_eq_next hstep
  · exact h
  · have hs : { s with pending := rest }.Inv := inv_of_same_buffers h rfl rfl rfl
    exact inv_hostWrites hs hw

/-- Settles O60: SRC_BUF holds DEFAULT_PAYLOAD, which fits it; DST_BUF is empty and OUT_LEN is 0. -/
theorem resetMeetsInvariants : Obligations.ResetMeetsInvariants := fun _ h =>
  ⟨inv_resetWith h, Nat.zero_le _, fun _ hk => absurd hk (Nat.not_lt_zero _)⟩

end Sys2Proof.Machine
end

section
/-! OUT_LEN and the bytes of DST_BUF below it (10_state.md R29): nothing but an encode command and BUILD writes
OUT_LEN, these write the bytes with it, and no write takes a byte's value away. -/

namespace Sys2Proof.Machine

open Sys2Proof

/-- A byte that holds a value holds one after every write (20_memory.md R78). -/
theorem Memory.byteAt_writeBytes_ne_none {m : Memory} {k : Nat} (h : m.byteAt k ≠ none) (a : Nat) (bs : Bytes) :
    (m.writeBytes a bs).byteAt k ≠ none := by
  rw [Memory.byteAt_writeBytes]
  split
  next hk => simpa using (show k - a < bs.length by omega)
  next => exact h

@[simp] theorem Regs.get_outLen (rs : Regs) : rs.get .outLen = rs.outLen := BitVec.setWidth_eq _

theorem Regs.commit_outLen_of_unlisted (rs : Regs) {upd : Updates} (h : ∀ e ∈ upd, e.1 ≠ .outLen) :
    (rs.commit upd).outLen = rs.outLen := by
  simpa using rs.get_commit_other h

theorem Regs.commit_outLen_of_last (rs : Regs) (res : Updates) (v : Word) :
    (rs.commit (res ++ [(.outLen, v)])).outLen = v := by
  rw [Regs.commit_append]
  exact BitVec.setWidth_eq v

theorem defaultUpdates_ne_outLen (p : Params) : ∀ e ∈ defaultUpdates p, e.1 ≠ .outLen := by
  simp [defaultUpdates, layerFieldRegs]

section Keeps

variable {s t : State}

/-- The output speaks of BUF_BYTES, OUT_LEN and DST_BUF alone. -/
theorem outputHeld_of_same_output (h : s.OutputHeld) (hp : t.params = s.params)
    (hl : t.regs.outLen = s.regs.outLen) (hd : t.dst = s.dst) : t.OutputHeld := by
  rwa [State.OutputHeld, hp, hl, hd]

theorem outputHeld_commit (h : s.OutputHeld) {upd : Updates} (hupd : ∀ e ∈ upd, e.1 ≠ .outLen) :
    (s.commit upd).OutputHeld :=
  outputHeld_of_same_output h rfl (Regs.commit_outLen_of_unlisted _ hupd) rfl

theorem outputHeld_select (h : s.OutputHeld) (sel : TSel) : (s.select sel).OutputHeld :=
  outputHeld_of_same_output h rfl rfl rfl

theorem outputHeld_memWrite (h : s.OutputHeld) (buf : Buf) (off : Nat) (bs : Bytes) :
    (memWrite s buf off bs).OutputHeld := by
  obtain ⟨hlen, hheld⟩ := h
  cases buf with
  | src => exact ⟨hlen, hheld⟩
  | dst => exact ⟨hlen, fun k hk => Memory.byteAt_writeBytes_ne_none (hheld k hk) off bs⟩

/-- An output and its length written together are held (R170, R240): OUT_LEN is no more than the bytes written. -/
theorem outputHeld_output {out : Bytes} (res : Updates) (hle : out.length ≤ s.params.bufBytes) :
    (memWrite (s.commit (res ++ [(.outLen, BitVec.ofNat 32 out.length)])) .dst 0 out).OutputHeld := by
  have hcut : (BitVec.ofNat 32 out.length).toNat ≤ out.length := by
    rw [BitVec.toNat_ofNat]
    exact Nat.mod_le _ _
  simp only [State.OutputHeld, memWrite_dst_params, memWrite_dst_regs, memWrite_dst_dst, State.commit_params,
    State.commit_regs, State.commit_dst, Regs.commit_outLen_of_last]
  refine ⟨Nat.le_trans hcut hle, fun k hk => ?_⟩
  have hlt : k < out.length := Nat.lt_of_lt_of_le hk hcut
  simp [Memory.byteAt_writeBytes, hlt]

theorem outputHeld_releaseReset (h : s.OutputHeld) : s.releaseReset.OutputHeld := by
  unfold State.releaseReset
  split
  · exact ⟨Nat.zero_le _, fun _ hk => absurd hk (Nat.not_lt_zero _)⟩
  · exact h

theorem outputHeld_commandWrites (h : s.OutputHeld) (hw : CommandWrites s t) : t.OutputHeld := by
  cases hw with
  | registers upd hupd => exact outputHeld_commit h hupd
  | select sel => exact outputHeld_select h sel
  | output out res hle => exact outputHeld_output res hle
  | defaults =>
    have hc := outputHeld_commit h (defaultUpdates_ne_outLen s.params)
    exact outputHeld_memWrite (outputHeld_select hc .none) .src 0 _

theorem outputHeld_runCommand {w : Word} (h : s.OutputHeld) (hr : runCommand w s = .next t) : t.OutputHeld := by
  cases runCommand_leaves hr with
  | success hw => exact outputHeld_of_same_output (outputHeld_commandWrites h hw) rfl rfl rfl
  | failure e => exact outputHeld_of_same_output h rfl rfl rfl

theorem outputHeld_hostWrites (h : s.OutputHeld) (hw : HostWrites s t) : t.OutputHeld := by
  cases hw with
  | command hr => exact outputHeld_runCommand h hr
  | register r v hrw =>
    have hr : r ≠ .outLen := by rintro rfl; cases hrw
    exact outputHeld_commit h (by simpa using hr)
  | buffer buf off bs => exact outputHeld_memWrite h buf off bs
  | resetRelease => exact outputHeld_releaseReset h
  | readOnly => exact h
  | status | read | resetAssert => exact outputHeld_of_same_output h (by simp) (by simp) (by simp)

end Keeps

/-- Settles O59: each way an operation writes keeps the output, or writes a whole new one with its length. -/
theorem stepKeepsOutputReadable : Obligations.StepKeepsOutputReadable := by
  intro s t _ h hstep
  obtain ⟨-, rfl⟩ | ⟨op, rest, -, hw⟩ := step_eq_next hstep
  · exact h
  · have hs : { s with pending := rest }.OutputHeld := outputHeld_of_same_output h rfl rfl rfl
    exact outputHeld_hostWrites hs hw

end Sys2Proof.Machine
end

section
/-! Accesses to the register file (10_state.md R21 to R28, R73): what a stored register
holds and takes, STATUS and TSEL; and the release of reset (70_reset_and_hazards.md R291). -/

namespace Sys2Proof.Machine

open Sys2Proof Sys2Proof.Claims

section Fields

/-- A field of at most 32 bits, zero-extended, stays below its width (R21). -/
theorem setWidth_toNat_lt {n : Nat} (x : BitVec n) : (x.setWidth 32).toNat < 2 ^ n := by
  rw [BitVec.toNat_setWidth]
  exact Nat.lt_of_le_of_lt (Nat.mod_le _ _) x.isLt

theorem Regs.get_toNat_lt (rs : Regs) (r : Reg) : (rs.get r).toNat < 2 ^ r.width := by
  cases r <;> exact setWidth_toNat_lt _

theorem Reg.width_le (r : Reg) : r.width ≤ 32 := by
  cases r <;> decide

theorem Reg.fit_toNat (r : Reg) (v : Word) : (r.fit v).toNat = v.toNat % 2 ^ r.width := by
  have hlt : v.toNat % 2 ^ r.width < 2 ^ 32 :=
    Nat.lt_of_lt_of_le (Nat.mod_lt _ (Nat.two_pow_pos _)) (Nat.pow_le_pow_right Nat.two_pos r.width_le)
  rw [Reg.fit, BitVec.toNat_setWidth, BitVec.toNat_setWidth, Nat.mod_eq_of_lt hlt]

theorem State.statusWord_toNat (s : State) :
    s.statusWord.toNat = (errcodeField s.errcode).toNat + (if s.errSticky then 0x100 else 0) := by
  unfold State.statusWord
  generalize errcodeField s.errcode = code
  revert code
  cases s.errSticky <;> decide

theorem State.statusWord_eq_zero {s : State} (he : s.errcode = none) (hs : s.errSticky = false) :
    s.statusWord = 0 := by
  simp [State.statusWord, errcodeField, he, hs]

theorem State.writeStatus_eq (s : State) (v : Word) :
    s.writeStatus v = { s with errSticky := s.errSticky && !v.getLsbD 8 } := by
  unfold State.writeStatus
  cases v.getLsbD 8 <;> simp

end Fields

/-- The register table of R25 and the model's own map, access kinds and widths agree. -/
theorem registerTable_agrees : ∀ row ∈ registerTable, row.1 < 0x1000 ∧ row.1 % 4 = 0 ∧
    Slot.atOffset row.1 = some (.reg row.2.1) ∧ row.2.1.kind = row.2.2.1 ∧ row.2.1.width = row.2.2.2 := by
  decide

/-- Settles O7: the access reaches the register the table names, whose kind and width are the table's. -/
theorem registerAccessByKind : Obligations.RegisterAccessByKind := by
  intro row hrow s v rest
  obtain ⟨hoff, halign, hslot, hkind, hwidth⟩ := registerTable_agrees row hrow
  rw [← hkind, ← hwidth]
  refine ⟨fun hread => ⟨step_register hread hoff halign hslot, s.regs.get_toNat_lt _⟩, fun hwrite => ?_⟩
  have hstep := step_register hwrite hoff halign hslot
  simp only [writeSlot] at hstep
  refine ⟨fun hro => by rwa [hro] at hstep, fun hrw => ?_⟩
  rw [hrw] at hstep
  refine ⟨_, hstep, ?_, fun r hr => Regs.get_set_other _ _ hr.symm⟩
  exact (congrArg BitVec.toNat (Regs.get_set_same _ _ _)).trans (Reg.fit_toNat _ _)

/-- Settles O8: each clause is the register access at CMD, STATUS or TSEL. -/
theorem controlRegisterAccess : Obligations.ControlRegisterAccess := by
  intro s v rest
  refine ⟨fun hcmd => ?_, fun hstatus => ?_, fun hstatus => ?_, fun htsel => ?_, fun htsel => ?_⟩
  · exact step_register (off := 0) (slot := .cmd) hcmd (by decide) rfl rfl
  · refine ⟨_, step_register (slot := .status) hstatus (by decide) rfl rfl, ?_⟩
    refine (State.statusWord_toNat _).trans (congrArg (· + _) ?_)
    rcases s.errcode with _ | e
    · rfl
    · cases e <;> rfl
  · rw [step_register (slot := .status) hstatus (by decide) rfl rfl]
    exact congrArg _ (State.writeStatus_eq _ v)
  · rw [step_register (slot := .tsel) htsel (by decide) rfl rfl]
    cases s.tsel <;> rfl
  · exact step_register (slot := .tsel) htsel (by decide) rfl rfl

theorem Regs.reset_get_table (n : Nat) : ∀ row ∈ resetTable, (Regs.reset n).get row.1 = row.2 :=
  List.map_inj_left.1 (show resetTable.map (fun row => (Regs.reset n).get row.1) = resetTable.map Prod.snd from rfl)

/-- Settles O14: the release leaves `State.resetWith`, whose registers are the table's. -/
theorem releaseOfResetLeavesResetState : Obligations.ReleaseOfResetLeavesResetState := by
  intro s rest hreset hpending
  have hstep : step s = .next { State.resetWith s.params with pending := rest, reads := s.reads } := by
    simp [step, hostStep, hpending, hostOp, State.releaseReset, hreset]
  refine ⟨_, hstep, Regs.reset_get_table _, ?_, State.statusWord_eq_zero rfl rfl, rfl, rfl, rfl, rfl,
    fun k => ?_, fun _ => rfl, rfl, rfl, rfl⟩
  · exact BitVec.setWidth_eq _
  · exact (Memory.byteAt_cells _ 0 k).trans (if_pos (Nat.zero_le k))

end Sys2Proof.Machine
end

section
/-! The CMD write (10_state.md R26, 60_exceptions.md R268) and the two ways ERR_STICKY is cleared (R27). -/

namespace Sys2Proof.Machine

open Sys2Proof

section CommandWord

/-- Each row's columns follow from its OP (30_encoding.md R97): the OP is assigned, the mask covers [7:0] and, above
it, exactly the bits the command may not set, and nothing is matched there but zeros. -/
theorem opTable_columns : ∀ row ∈ opTable, opAssigned (opField row.pat) = true ∧ opField row.mask = 0xFF ∧
    row.mask &&& ~~~0xFF = ~~~(0xFF ||| allowedBits (opField row.pat)) ∧ row.pat &&& ~~~0xFF = 0 := by
  decide

theorem opField_and (w m : Word) : opField (w &&& m) = opField w &&& opField m :=
  BitVec.extractLsb'_and

/-- A word that matches a row is legal (R97, R98). -/
theorem legal_of_matches {row : OpRow} (hrow : row ∈ opTable) {w : Word} (hw : w &&& row.mask = row.pat) :
    legal w = true := by
  obtain ⟨hop, hlow, hmask, hpat⟩ := opTable_columns row hrow
  have hfield : opField w = opField row.pat := by
    rw [← hw, opField_and, hlow]
    exact BitVec.and_allOnes.symm
  have hreserved : w &&& ~~~(0xFF ||| allowedBits (opField w)) = 0 := by
    rw [hfield, ← hmask, ← BitVec.and_assoc, hw, hpat]
  rw [legal, hreserved, hfield, hop]
  rfl

theorem legal_of_decode {w : Word} {i : Instr} (h : decode w = .ok i) : legal w = true := by
  unfold decode at h
  split at h
  next row hfind => exact legal_of_matches (List.mem_of_find?_eq_some hfind) (by simpa using List.find?_some hfind)
  next => split at h <;> cases h

theorem runCommand_of_decode {w : Word} {i : Instr} (h : decode w = .ok i) (s : State) :
    runCommand w s = exec i s := by
  simp only [runCommand, h]

theorem runCommand_of_illegal {w : Word} (h : legal w = false) (s : State) :
    runCommand w s = .next (s.raise .illegalCommand) := by
  cases hd : decode w with
  | error e => simp only [runCommand, hd]
  | ok i => simp [legal_of_decode hd] at h

/-- Settles O5: the write reaches CMD, and CMD runs the word's command. -/
theorem cmdWriteRunsDecodedCommand : Obligations.CmdWriteRunsDecodedCommand :=
  fun _ _ _ _ hdecode hissues => (step_cmd hissues).trans (runCommand_of_decode hdecode _)

/-- Settles O6: an illegal word decodes to no command, so CMD raises ILLEGAL_COMMAND. -/
theorem illegalCmdWriteChangesOnlyStatus : Obligations.IllegalCmdWriteChangesOnlyStatus :=
  fun _ _ _ hillegal hissues => (step_cmd hissues).trans (runCommand_of_illegal hillegal _)

end CommandWord

section Sticky

variable {s t : State} {a : Access} {off : Nat}

theorem commandWrites_errSticky (h : CommandWrites s t) : t.errSticky = s.errSticky := by
  cases h <;> simp

/-- A command sets ERR_STICKY or leaves it (R266). -/
theorem runCommand_keeps_sticky {w : Word} (hs : s.errSticky = true) (h : runCommand w s = .next t) :
    t.errSticky = true := by
  cases runCommand_leaves h with
  | success hw => exact (commandWrites_errSticky hw).trans hs
  | failure e => rfl

theorem memWrite_errSticky (s : State) (buf : Buf) (k : Nat) (bs : Bytes) :
    (memWrite s buf k bs).errSticky = s.errSticky := by
  cases buf <;> rfl

/-- What a register access that answers does: it reads, or writes a listed register (R73). -/
theorem regAccess_eq_next (h : regAccess a off s = .next t) :
    a.width = 32 ∧ ∃ slot, Slot.atOffset off = some slot ∧
      (t.errSticky = s.errSticky ∨ ∃ v, a.op = .write v ∧ writeSlot slot v s = .next t) := by
  unfold regAccess at h
  split at h
  next hw =>
    split at h
    next => cases h
    next slot hslot =>
      refine ⟨hw.1, slot, hslot, ?_⟩
      split at h
      next => cases h; exact .inl rfl
      next v hop => exact .inr ⟨v, hop, h⟩
  next => cases h

theorem bufBytesAccess_errSticky {buf : Buf} {n : Nat} {value : Bytes → Word} {bytes : Word → Bytes}
    (h : bufBytesAccess a buf off n value bytes s = .next t) : t.errSticky = s.errSticky := by
  unfold bufBytesAccess at h
  split at h
  · split at h
    · split at h
      · cases h
      · cases h; rfl
    · cases h; exact memWrite_errSticky ..
  · cases h

theorem bufAccess_errSticky {buf : Buf} (h : bufAccess a buf off s = .next t) : t.errSticky = s.errSticky := by
  unfold bufAccess at h
  split at h
  · exact bufBytesAccess_errSticky h
  · split at h
    · exact bufBytesAccess_errSticky h
    · cases h

theorem atOffset_status (h : Slot.atOffset off = some .status) : off = 4 := by
  simp only [Slot.atOffset, Option.map_eq_some_iff] at h
  obtain ⟨e, he, hs⟩ := h
  have hmem := List.mem_of_find?_eq_some he
  have hoff : e.1 = off := by simpa using List.find?_some he
  have hstatus : ∀ e ∈ regMap, e.2 = .status → e.1 = 4 := by decide
  exact hoff ▸ hstatus e hmem hs

/-- Of the register writes only STATUS with bit 8 set clears ERR_STICKY (R27). -/
theorem writeSlot_clears_sticky {slot : Slot} {v : Word} (hs : s.errSticky = true) (ht : t.errSticky = false)
    (h : writeSlot slot v s = .next t) : slot = .status ∧ v.getLsbD 8 = true := by
  cases slot with
  | cmd => exact absurd (runCommand_keeps_sticky hs h) (by simp [ht])
  | status => cases h; simpa [hs] using ht
  | tsel => cases h; simp [hs] at ht
  | reg r =>
    simp only [writeSlot] at h
    split at h <;> cases h <;> simp [hs] at ht

theorem windowAccess_clears_sticky (hs : s.errSticky = true) (ht : t.errSticky = false)
    (h : windowAccess a off s = .next t) :
    off = 4 ∧ a.width = 32 ∧ ∃ v, a.op = .write v ∧ v.getLsbD 8 = true := by
  have hchanged : t.errSticky ≠ s.errSticky := by simp [hs, ht]
  unfold windowAccess at h
  split at h
  · obtain ⟨hwidth, slot, hslot, hread | ⟨v, hop, hwrite⟩⟩ := regAccess_eq_next h
    · exact absurd hread hchanged
    · obtain ⟨rfl, hbit⟩ := writeSlot_clears_sticky hs ht hwrite
      exact ⟨atOffset_status hslot, hwidth, v, hop, hbit⟩
  · split at h
    · exact absurd (bufAccess_errSticky h) hchanged
    · split at h
      · exact absurd (bufAccess_errSticky h) hchanged
      · cases h

/-- Of the bus accesses only that write, at BASE + 4, clears ERR_STICKY. -/
theorem busAccess_clears_sticky (hs : s.errSticky = true) (ht : t.errSticky = false)
    (h : busAccess a s = .next t) :
    ∃ v, a = ⟨s.params.base + 4, 32, .write v⟩ ∧ v.getLsbD 8 = true := by
  unfold busAccess at h
  split at h
  next hwindow =>
    split at h
    · cases h
    · obtain ⟨hoff, hwidth, v, hop, hbit⟩ := windowAccess_clears_sticky hs ht h
      have haddr : a.addr = s.params.base + 4 := by omega
      exact ⟨v, by rw [← haddr, ← hwidth, ← hop], hbit⟩
  next => cases h

theorem releaseReset_clears_sticky (hs : s.errSticky = true) (ht : s.releaseReset.errSticky = false) :
    s.resetIn = .asserted := by
  unfold State.releaseReset at ht
  split at ht
  next hr => exact hr
  next => simp [hs] at ht

end Sticky

/-- Settles O55: of the host's operations only the STATUS write and the release of an asserted reset clear it. -/
theorem stickyErrorStays : Obligations.StickyErrorStays := by
  intro s t hs hstep ht
  unfold step hostStep at hstep
  split at hstep
  next => cases hstep; simp [hs] at ht
  next op rest hpending =>
    cases op with
    | access a =>
      obtain ⟨v, rfl, hbit⟩ := busAccess_clears_sticky (s := { s with pending := rest }) hs ht hstep
      exact .inl ⟨v, rest, hpending, hbit⟩
    | resetAssert => cases hstep; simp [hs] at ht
    | resetRelease =>
      cases hstep
      exact .inr ⟨releaseReset_clears_sticky (s := { s with pending := rest }) hs ht, rest, hpending⟩

end Sys2Proof.Machine
end

section
/-! What a command writes (the "Registers written" of its rule): the body of each command, the result registers of each
layer, and the frame a command leaves around them (10_state.md R28, R29, R54 to R58; 43_builder.md R233, R240). -/

namespace Sys2Proof.Machine

open Sys2Proof Sys2Proof.Claims

/-- How the body of a command ends, before STATUS records it (60_exceptions.md R266). -/
def commandBody (s : State) : Instr → Ending
  | .csumClear => .done (s.commit [(.csumAcc, 0)])
  | .csumAdd buf => csumAddBody buf s
  | .csumPseudo proto => .done (s.commit [(.csumAcc,
      accBytes s.regs.csumAcc (pseudo (be32 s.regs.ipSrc) (be32 s.regs.ipDst) proto s.regs.csPlen))])
  | .csumFinal zf => .done (s.commit [(.csumRes,
      (if zf then zeroRule (~~~ fold s.regs.csumAcc) else ~~~ fold s.regs.csumAcc).setWidth 32)])
  | .encEth => encodeBody s true (fEth s.regs)
  | .encIpv4 => encodeBody s (knownProto s.regs.ipProto) (fIpv4 s.regs s.regs.ipProto)
  | .encTcp => encodeBody s true (fTcp s.regs)
  | .encUdp => encodeBody s true (fUdp s.regs)
  | .encIcmp => encodeBody s true (fIcmp s.regs)
  | .decEth => decodeBody s 14 gEth
  | .decIpv4 => decodeBody s 20 gIpv4
  | .decTcp => decodeBody s 20 gTcp
  | .decUdp => decodeBody s 8 gUdp
  | .decIcmp => decodeBody s 8 gIcmp
  | .selIcmp => .done (s.select .icmp)
  | .selTcp => .done (s.select .tcp)
  | .selUdp => .done (s.select .udp)
  | .build => buildBody s
  | .loadDefaults => .done (memWrite ((s.commit (defaultUpdates s.params)).select .none) .src 0 s.params.defaultPayload)

theorem exec_eq_finish (i : Instr) (s : State) : exec i s = finish s (commandBody s i) := by
  cases i <;> rfl

section Results

variable {rs : Regs} {sel : TSel} {proto : Byte} {pay out : Bytes} {res : Updates}

theorem fEth_results (h : fEth rs pay = .ok (out, res)) : res.map Prod.fst = [] := by
  cases h; rfl

theorem fIpv4_results (h : fIpv4 rs proto pay = .ok (out, res)) :
    res.map Prod.fst = [.ipVerIhl, .ipTotlen, .ipCsum] := by
  unfold fIpv4 at h
  dsimp only at h
  split at h <;> cases h
  rfl

theorem fTcp_results (h : fTcp rs pay = .ok (out, res)) : res.map Prod.fst = [.tcpHlen, .tcpCsum] := by
  unfold fTcp at h
  dsimp only at h
  split at h <;> cases h
  rfl

theorem fUdp_results (h : fUdp rs pay = .ok (out, res)) : res.map Prod.fst = [.udpLen, .udpCsum] := by
  unfold fUdp at h
  dsimp only at h
  split at h <;> cases h
  rfl

theorem fIcmp_results (h : fIcmp rs pay = .ok (out, res)) : res.map Prod.fst = [.icmpCsum] := by
  cases h; rfl

/-- The result registers of the transport BUILD uses (R240). -/
def transportResults : TSel → List Reg
  | .none => []
  | .icmp => [.icmpCsum]
  | .tcp => [.tcpHlen, .tcpCsum]
  | .udp => [.udpLen, .udpCsum]

theorem transportLayer_results (h : transportLayer rs sel pay = .ok (out, res)) :
    res.map Prod.fst = transportResults sel := by
  cases sel with
  | none => cases h
  | icmp => exact fIcmp_results h
  | tcp => exact fTcp_results h
  | udp => exact fUdp_results h

theorem buildLayer_results (h : buildLayer rs sel pay = .ok (out, res)) :
    res.map Prod.fst = transportResults sel ++ [.ipVerIhl, .ipTotlen, .ipCsum] := by
  unfold buildLayer at h
  split at h
  next => cases h
  next transport htransport =>
    unfold frameLayer at h
    split at h
    next => cases h
    next ip r2 hip =>
      cases h
      rw [List.map_append, transportLayer_results htransport, fIpv4_results hip]

/-- The result registers of a layer, when it gives bytes, are these. -/
def LayerResults (layer : Bytes → Layer) (regs : List Reg) : Prop :=
  ∀ pay out res, layer pay = .ok (out, res) → res.map Prod.fst = regs

theorem gEth_fields (b : Bytes) :
    (gEth b).1.map Prod.fst = [.ethDstHi, .ethDstLo, .ethSrcHi, .ethSrcLo, .ethType] := rfl

theorem gIpv4_fields (b : Bytes) : (gIpv4 b).1.map Prod.fst = [.ipVerIhl, .ipTos, .ipTotlen, .ipId,
    .ipFlags, .ipFrag, .ipTtl, .ipProto, .ipCsum, .ipSrc, .ipDst] := rfl

theorem gTcp_fields (b : Bytes) : (gTcp b).1.map Prod.fst = [.tcpSport, .tcpDport, .tcpSeq, .tcpAck,
    .tcpHlen, .tcpFlags, .tcpWin, .tcpCsum, .tcpUrg] := rfl

theorem gUdp_fields (b : Bytes) : (gUdp b).1.map Prod.fst = [.udpSport, .udpDport, .udpLen, .udpCsum] := rfl

theorem gIcmp_fields (b : Bytes) :
    (gIcmp b).1.map Prod.fst = [.icmpType, .icmpCode, .icmpCsum, .icmpId, .icmpSeq] := rfl

end Results

/-- `t` is `s` but for these registers, STATUS and the buffers, and holds the selection `sel`. -/
structure CommandFrame (regs : List Reg) (sel : TSel) (s t : State) : Prop where
  csr : ∀ r, r ∉ regs → t.csr r = s.csr r
  tsel : t.tsel = sel
  params : t.params = s.params
  resetIn : t.resetIn = s.resetIn
  pending : t.pending = s.pending
  reads : t.reads = s.reads

section Frame

variable {s t u : State} {regs : List Reg} {sel : TSel}

theorem commit_frame {upd : Updates} (h : upd.map Prod.fst ⊆ regs) : CommandFrame regs s.tsel s (s.commit upd) where
  csr _ hr := Regs.get_commit_other _ fun _ he heq => hr (heq ▸ h (List.mem_map_of_mem he))
  tsel := rfl
  params := rfl
  resetIn := rfl
  pending := rfl
  reads := rfl

theorem CommandFrame.select (h : CommandFrame regs sel s u) (sel' : TSel) :
    CommandFrame regs sel' s (u.select sel') :=
  { h with tsel := rfl }

theorem CommandFrame.memWrite (h : CommandFrame regs sel s u) (buf : Buf) (a : Nat) (bs : Bytes) :
    CommandFrame regs sel s (memWrite u buf a bs) := by
  cases buf <;> exact { h with }

theorem CommandFrame.succeed (h : CommandFrame regs sel s u) : CommandFrame regs sel s u.succeed :=
  { h with }

theorem raise_frame (s : State) (e : Err) : CommandFrame regs s.tsel s (s.raise e) :=
  ⟨fun _ _ => rfl, rfl, rfl, rfl, rfl, rfl⟩

theorem csumAddBody_frame {buf : Buf} (h : csumAddBody buf s = .done u) : CommandFrame [.csumAcc] s.tsel s u := by
  obtain ⟨-, he⟩ | ⟨-, f, -, he⟩ | ⟨-, b, -, he⟩ := csumAddBody_cases buf s <;> rw [he] at h <;> cases h
  exact commit_frame (List.Subset.refl _)

theorem emit_frame {layer : Layer} {results : List Reg}
    (hres : ∀ out res, layer = .ok (out, res) → res.map Prod.fst = results) (h : emit s layer = .done u) :
    CommandFrame (results ++ [.outLen]) s.tsel s u := by
  obtain ⟨out, res, hlayer, -, rfl⟩ := emit_eq_done h
  refine (commit_frame ?_).memWrite .dst 0 out
  simp [hres out res hlayer]

theorem encodeBody_frame {protoOk : Bool} {layer : Bytes → Layer} {results : List Reg}
    (hres : LayerResults layer results) (h : encodeBody s protoOk layer = .done u) :
    CommandFrame (results ++ [.outLen]) s.tsel s u := by
  obtain ⟨-, he⟩ | ⟨-, -, he⟩ | ⟨-, -, f, -, he⟩ | ⟨-, -, pay, -, he⟩ := encodeBody_cases s protoOk layer <;>
    rw [he] at h
  · cases h
  · cases h
  · cases h
  · exact emit_frame (hres pay) h

theorem decodeBody_frame {minLen : Nat} {layer : Bytes → Updates × Nat} {fields : List Reg}
    (hf : ∀ b, (layer b).1.map Prod.fst = fields) (h : decodeBody s minLen layer = .done u) :
    CommandFrame (fields ++ [.payOff, .payLen]) s.tsel s u := by
  obtain ⟨-, he⟩ | ⟨-, -, he⟩ | ⟨-, -, f, -, he⟩ | ⟨-, -, b, -, he⟩ := decodeBody_cases s minLen layer <;>
    rw [he] at h <;> cases h
  refine commit_frame ?_
  simp [hf b, payloadRegion]

theorem buildBody_frame (h : buildBody s = .done u) : CommandFrame (mayWrite s.tsel .build) s.tsel s u := by
  obtain ⟨-, he⟩ | ⟨-, -, he⟩ | ⟨-, -, f, -, he⟩ | ⟨-, -, pay, -, he⟩ := buildBody_cases s <;> rw [he] at h
  · cases h
  · cases h
  · cases h
  · have hframe := emit_frame (fun _ _ => buildLayer_results) h
    have hlisted (sel : TSel) :
        transportResults sel ++ [.ipVerIhl, .ipTotlen, .ipCsum] ++ [.outLen] ⊆ mayWrite sel .build := by
      cases sel <;> decide
    exact { hframe with csr := fun r hr => hframe.csr r fun hmem => hr (hlisted _ hmem) }

/-- TSEL after a command that found it at `sel` (R28, R233). -/
def selectionAfter (sel : TSel) : Instr → TSel
  | .selIcmp => .icmp
  | .selTcp => .tcp
  | .selUdp => .udp
  | .loadDefaults => .none
  | _ => sel

theorem commandBody_frame {i : Instr} (h : commandBody s i = .done u) :
    CommandFrame (mayWrite s.tsel i) (selectionAfter s.tsel i) s u := by
  cases i with
  | csumClear | csumPseudo | csumFinal => cases h; exact commit_frame (List.Subset.refl _)
  | csumAdd buf => exact csumAddBody_frame h
  | encEth => exact encodeBody_frame (fun _ _ _ => fEth_results) h
  | encIpv4 => exact encodeBody_frame (fun _ _ _ => fIpv4_results) h
  | encTcp => exact encodeBody_frame (fun _ _ _ => fTcp_results) h
  | encUdp => exact encodeBody_frame (fun _ _ _ => fUdp_results) h
  | encIcmp => exact encodeBody_frame (fun _ _ _ => fIcmp_results) h
  | decEth => exact decodeBody_frame gEth_fields h
  | decIpv4 => exact decodeBody_frame gIpv4_fields h
  | decTcp => exact decodeBody_frame gTcp_fields h
  | decUdp => exact decodeBody_frame gUdp_fields h
  | decIcmp => exact decodeBody_frame gIcmp_fields h
  | selIcmp | selTcp | selUdp => cases h; exact ⟨fun _ _ => rfl, rfl, rfl, rfl, rfl, rfl⟩
  | build => exact buildBody_frame h
  | loadDefaults =>
    cases h
    refine ((commit_frame ?_).select .none).memWrite .src 0 _
    simp [defaultUpdates, mayWrite, Function.comp_def]

/-- The commands that write TSEL raise no error. -/
theorem selectionAfter_of_raised {i : Instr} {e : Err} (h : commandBody s i = .raised e) :
    selectionAfter s.tsel i = s.tsel := by
  cases i with
  | selIcmp | selTcp | selUdp | loadDefaults => cases h
  | _ => rfl

/-- The frame of every command over the registers, on success and on failure. -/
theorem exec_frame {i : Instr} (h : exec i s = .next t) :
    CommandFrame (mayWrite s.tsel i) (selectionAfter s.tsel i) s t := by
  rw [exec_eq_finish, finish_eq_next_iff] at h
  obtain ⟨u, hu, rfl⟩ | ⟨e, he, rfl⟩ := h
  · exact (commandBody_frame hu).succeed
  · rw [selectionAfter_of_raised he]
    exact raise_frame s e

end Frame

/-- Settles O52: the frame of the command. -/
theorem commandWritesOnlyItsRegisters : Obligations.CommandWritesOnlyItsRegisters := by
  intro i s t h
  obtain ⟨hcsr, -, hparams, hreset, hpending, hreads⟩ := exec_frame h
  exact ⟨hcsr, hparams, hreset, hpending, hreads⟩

/-- Settles O53: the frame names TSEL after the command. -/
theorem onlySelectAndDefaultsWriteTsel : Obligations.OnlySelectAndDefaultsWriteTsel := by
  intro i s t h
  have hsel : t.tsel = selectionAfter s.tsel i := (exec_frame h).tsel
  refine ⟨fun hi => hsel.trans ?_, ?_, ?_, ?_, ?_⟩
  · cases i with
    | selIcmp | selTcp | selUdp | loadDefaults => simp at hi
    | _ => rfl
  all_goals rintro rfl; exact hsel

end Sys2Proof.Machine
end

section
/-! What commands do not look at (10_state.md R57, R62): a change of CSUM_ACC or STATUS that a command does not see
passes through its body, and comes out of the command as it went in. -/

namespace Sys2Proof.Machine

open Sys2Proof Sys2Proof.Claims

/-- The same ending, with a success seen through `f`. -/
def Ending.map (f : State → State) : Ending → Ending
  | .done u => .done (f u)
  | .raised e => .raised e
  | .faulted x => .faulted x

/-- A change of state that no command outside the checksum family sees: it leaves every field such a command reads,
and commutes with every write such a command makes. -/
structure Unseen (f : State → State) : Prop where
  params : ∀ s, (f s).params = s.params
  tsel : ∀ s, (f s).tsel = s.tsel
  buffer : ∀ s buf, (f s).buffer buf = s.buffer buf
  regs : ∀ s, ∃ a, (f s).regs = { s.regs with csumAcc := a }
  commit : ∀ s upd, Reg.csumAcc ∉ upd.map Prod.fst → (f s).commit upd = f (s.commit upd)
  select : ∀ s sel, (f s).select sel = f (s.select sel)
  memWrite : ∀ s buf a bs, Machine.memWrite (f s) buf a bs = f (Machine.memWrite s buf a bs)

section Unseen

variable {f : State → State} (hf : Unseen f) (s : State)
include hf

/-- What depends on the registers but not on CSUM_ACC is the same after the change. -/
theorem Unseen.reads {α : Type} (g : Regs → α) (hg : ∀ rs a, g { rs with csumAcc := a } = g rs) :
    g (f s).regs = g s.regs := by
  obtain ⟨a, ha⟩ := hf.regs s
  rw [ha, hg]

theorem Unseen.memRead (buf : Buf) (a n : Nat) : Machine.memRead (f s) buf a n = Machine.memRead s buf a n := by
  rw [Machine.memRead, hf.buffer, Machine.memRead]

theorem Unseen.inBounds (off len : Nat) : (f s).inBounds off len = s.inBounds off len := by
  rw [State.inBounds, hf.params, State.inBounds]

theorem Unseen.payloadInBounds : Machine.payloadInBounds (f s) = Machine.payloadInBounds s :=
  (hf.inBounds s _ _).trans (hf.reads s (fun rs => s.inBounds rs.payOff.toNat rs.payLen.toNat) fun _ _ => rfl)

theorem Unseen.readPayload : Machine.readPayload (f s) = Machine.readPayload s :=
  (hf.memRead s _ _ _).trans (hf.reads s (fun rs => Machine.memRead s .src rs.payOff.toNat rs.payLen.toNat)
    fun _ _ => rfl)

theorem Unseen.inputInBounds : Machine.inputInBounds (f s) = Machine.inputInBounds s :=
  (hf.inBounds s _ _).trans (hf.reads s (fun rs => s.inBounds rs.inOff.toNat rs.inLen.toNat) fun _ _ => rfl)

theorem Unseen.readInput : Machine.readInput (f s) = Machine.readInput s :=
  (hf.memRead s _ _ _).trans (hf.reads s (fun rs => Machine.memRead s .src rs.inOff.toNat rs.inLen.toNat)
    fun _ _ => rfl)

theorem Unseen.inLen : (f s).regs.inLen = s.regs.inLen :=
  hf.reads s Regs.inLen fun _ _ => rfl

theorem Unseen.payloadRegion (hl : Nat) : Machine.payloadRegion (f s) hl = Machine.payloadRegion s hl := by
  have hoff : (f s).regs.inOff = s.regs.inOff := hf.reads s Regs.inOff fun _ _ => rfl
  simp only [Machine.payloadRegion, hoff, hf.inLen]

theorem emit_unseen {layer : Layer} {results : List Reg}
    (hres : ∀ out res, layer = .ok (out, res) → res.map Prod.fst = results) (hacc : .csumAcc ∉ results) :
    emit (f s) layer = (emit s layer).map f := by
  match layer, hres with
  | .error e, _ => rfl
  | .ok (out, res), hres =>
    rcases Nat.lt_or_ge s.params.bufBytes out.length with hlt | hle
    · rw [emit_ok_of_lt s res hlt, emit_ok_of_lt (f s) res ((hf.params s).symm ▸ hlt)]
      rfl
    · rw [emit_ok_of_le s res hle, emit_ok_of_le (f s) res ((hf.params s).symm ▸ hle), hf.commit, hf.memWrite]
      · rfl
      · simpa [hres out res rfl] using hacc

theorem encodeBody_unseen {protoOk : Bool} {layer : Bytes → Layer} {results : List Reg}
    (hres : LayerResults layer results) (hacc : .csumAcc ∉ results) :
    encodeBody (f s) protoOk layer = (encodeBody s protoOk layer).map f := by
  have hb := hf.payloadInBounds s
  have hr := hf.readPayload s
  obtain ⟨h1, he⟩ | ⟨h1, h2, he⟩ | ⟨h1, h2, x, h3, he⟩ | ⟨h1, h2, pay, h3, he⟩ := encodeBody_cases s protoOk layer <;>
    rw [he]
  · exact encodeBody_of_badRegion (hb.trans h1)
  · exact encodeBody_of_unknown (hb.trans h1) h2
  · exact encodeBody_of_fault (hb.trans h1) h2 (hr.trans h3)
  · rw [encodeBody_of_read (hb.trans h1) h2 (hr.trans h3)]
    exact emit_unseen hf s (hres pay) hacc

theorem decodeBody_unseen {minLen : Nat} {layer : Bytes → Updates × Nat} {fields : List Reg}
    (hfields : ∀ b, (layer b).1.map Prod.fst = fields) (hacc : .csumAcc ∉ fields) :
    decodeBody (f s) minLen layer = (decodeBody s minLen layer).map f := by
  have hb := hf.inputInBounds s
  have hr := hf.readInput s
  have hlen := congrArg BitVec.toNat (hf.inLen s)
  obtain ⟨h1, he⟩ | ⟨h1, h2, he⟩ | ⟨h1, h2, x, h3, he⟩ | ⟨h1, h2, b, h3, he⟩ := decodeBody_cases s minLen layer <;>
    rw [he]
  · exact decodeBody_of_badRegion (hb.trans h1)
  · exact decodeBody_of_short (hb.trans h1) (hlen ▸ h2)
  · exact decodeBody_of_fault (hb.trans h1) (hlen ▸ h2) (hr.trans h3)
  · rw [decodeBody_of_read (hb.trans h1) (hlen ▸ h2) (hr.trans h3), hf.payloadRegion, hf.commit]
    · rfl
    · simpa [hfields b, Machine.payloadRegion] using hacc

theorem buildBody_unseen : buildBody (f s) = (buildBody s).map f := by
  have hresults : .csumAcc ∉ transportResults s.tsel ++ [Reg.ipVerIhl, .ipTotlen, .ipCsum] := by
    cases s.tsel <;> decide
  have hlayer : buildLayer (f s).regs s.tsel = buildLayer s.regs s.tsel :=
    hf.reads s (buildLayer · s.tsel) fun _ _ => by cases s.tsel <;> rfl
  unfold buildBody
  rw [hf.tsel, hf.payloadInBounds, hf.readPayload, hlayer]
  split
  · rfl
  · split
    · rfl
    · split
      · rfl
      · exact emit_unseen hf s (fun _ _ => buildLayer_results) hresults

/-- The body of a command outside the checksum family does the same after an unseen change. -/
theorem commandBody_unseen {i : Instr} (hi : isChecksum i = false) :
    commandBody (f s) i = (commandBody s i).map f := by
  cases i with
  | csumClear | csumAdd | csumPseudo | csumFinal => cases hi
  | encEth =>
    rw [commandBody, hf.reads s fEth fun _ _ => rfl]
    exact encodeBody_unseen hf s (fun _ _ _ => fEth_results) (by decide)
  | encIpv4 =>
    rw [commandBody, hf.reads s Regs.ipProto fun _ _ => rfl, hf.reads s fIpv4 fun _ _ => rfl]
    exact encodeBody_unseen hf s (fun _ _ _ => fIpv4_results) (by decide)
  | encTcp =>
    rw [commandBody, hf.reads s fTcp fun _ _ => rfl]
    exact encodeBody_unseen hf s (fun _ _ _ => fTcp_results) (by decide)
  | encUdp =>
    rw [commandBody, hf.reads s fUdp fun _ _ => rfl]
    exact encodeBody_unseen hf s (fun _ _ _ => fUdp_results) (by decide)
  | encIcmp =>
    rw [commandBody, hf.reads s fIcmp fun _ _ => rfl]
    exact encodeBody_unseen hf s (fun _ _ _ => fIcmp_results) (by decide)
  | decEth => exact decodeBody_unseen hf s gEth_fields (by decide)
  | decIpv4 => exact decodeBody_unseen hf s gIpv4_fields (by decide)
  | decTcp => exact decodeBody_unseen hf s gTcp_fields (by decide)
  | decUdp => exact decodeBody_unseen hf s gUdp_fields (by decide)
  | decIcmp => exact decodeBody_unseen hf s gIcmp_fields (by decide)
  | selIcmp | selTcp | selUdp => exact congrArg Ending.done (hf.select s _)
  | build => exact buildBody_unseen hf s
  | loadDefaults =>
    have hlisted : .csumAcc ∉ (defaultUpdates s.params).map Prod.fst := by
      simp [defaultUpdates, layerFieldRegs]
    simp only [commandBody, hf.params, hf.commit s _ hlisted, hf.select, hf.memWrite, Ending.map]

end Unseen

section Accumulator

/-- The state with another value in CSUM_ACC. -/
def State.withAcc (a : Word) (s : State) : State := { s with regs := { s.regs with csumAcc := a } }

theorem Regs.set_withAcc (rs : Regs) (a v : Word) {r : Reg} (h : r ≠ .csumAcc) :
    { rs with csumAcc := a }.set v r = { rs.set v r with csumAcc := a } := by
  cases r with
  | csumAcc => exact absurd rfl h
  | _ => rfl

theorem Regs.commit_withAcc (rs : Regs) (a : Word) {upd : Updates} (h : Reg.csumAcc ∉ upd.map Prod.fst) :
    { rs with csumAcc := a }.commit upd = { rs.commit upd with csumAcc := a } := by
  induction upd generalizing rs with
  | nil => rfl
  | cons e upd ih =>
    obtain ⟨hhead, htail⟩ := not_or.1 (mt List.mem_cons.2 h)
    rw [Regs.commit, Regs.set_withAcc rs a e.2 (Ne.symm hhead), ih _ htail, Regs.commit]

theorem unseen_withAcc (a : Word) : Unseen (State.withAcc a) where
  params _ := rfl
  tsel _ := rfl
  buffer _ buf := by cases buf <;> rfl
  regs _ := ⟨a, rfl⟩
  commit s _ h := congrArg (fun rs => { s with regs := rs }) (Regs.commit_withAcc s.regs a h)
  select _ _ := rfl
  memWrite _ buf _ _ := by cases buf <;> rfl

end Accumulator

/-- Settles O56: a change of CSUM_ACC passes through the command's body, and STATUS is recorded beside it. -/
theorem accumulatorUnusedOutsideChecksumCommands : Obligations.AccumulatorUnusedOutsideChecksumCommands := by
  intro i s a hi
  have hexec : exec i (s.withAcc a) = finish (s.withAcc a) ((commandBody s i).map (State.withAcc a)) := by
    rw [exec_eq_finish, commandBody_unseen (unseen_withAcc a) s hi]
  rw [exec_eq_finish i s]
  refine ⟨fun t h => hexec.trans ?_, fun x h => hexec.trans ?_⟩
  · obtain ⟨u, hu, rfl⟩ | ⟨e, he, rfl⟩ := (finish_eq_next_iff s t _).1 h
    · rw [hu]; rfl
    · rw [he]; rfl
  · rw [(finish_eq_fault_iff s _ x).1 h]; rfl

section Status

/-- The state with another STATUS. -/
def State.withStatus (e : Option Err) (b : Bool) (s : State) : State := { s with errcode := e, errSticky := b }

theorem unseen_withStatus (e : Option Err) (b : Bool) : Unseen (State.withStatus e b) where
  params _ := rfl
  tsel _ := rfl
  buffer _ buf := by cases buf <;> rfl
  regs s := ⟨s.regs.csumAcc, rfl⟩
  commit _ _ _ := rfl
  select _ _ := rfl
  memWrite _ buf _ _ := by cases buf <;> rfl

variable (s : State) (e : Option Err) (b : Bool)

theorem csumAddBody_withStatus (buf : Buf) :
    csumAddBody buf (s.withStatus e b) = (csumAddBody buf s).map (State.withStatus e b) := by
  have hregs : (s.withStatus e b).regs = s.regs := rfl
  unfold csumAddBody
  rw [hregs, (unseen_withStatus e b).inBounds, (unseen_withStatus e b).memRead]
  cases s.inBounds s.regs.csOff.toNat s.regs.csLen.toNat with
  | false => rfl
  | true => cases memRead s buf s.regs.csOff.toNat s.regs.csLen.toNat <;> rfl

theorem commandBody_withStatus (i : Instr) :
    commandBody (s.withStatus e b) i = (commandBody s i).map (State.withStatus e b) := by
  cases hi : isChecksum i with
  | false => exact commandBody_unseen (unseen_withStatus e b) s hi
  | true =>
    cases i with
    | csumClear | csumPseudo | csumFinal => rfl
    | csumAdd buf => exact csumAddBody_withStatus s e b buf
    | _ => cases hi

end Status

/-- Settles O57: a change of STATUS passes through the command's body, and the outcome is recorded over it. -/
theorem noCommandReadsStatus : Obligations.NoCommandReadsStatus := by
  intro i s e b
  have hexec : exec i (s.withStatus e b) =
      finish (s.withStatus e b) ((commandBody s i).map (State.withStatus e b)) := by
    rw [exec_eq_finish, commandBody_withStatus]
  rw [exec_eq_finish i s]
  refine ⟨fun t h => ?_, fun x h => hexec.trans ?_⟩
  · obtain ⟨u, hu, rfl⟩ | ⟨x, hx, rfl⟩ := (finish_eq_next_iff s t _).1 h
    · exact ⟨b, hexec.trans (by rw [hu]; rfl)⟩
    · exact ⟨true, hexec.trans (by rw [hx]; rfl)⟩
  · rw [(finish_eq_fault_iff s _ x).1 h]; rfl

end Sys2Proof.Machine
end

section
/-! Host accesses to the buffers (20_memory.md R72, R76, R78), the bus errors (R74) and reads (R81): what each access
path answers for one access, in the order of the spaces of R70. -/

namespace Sys2Proof.Machine

open Sys2Proof Sys2Proof.Claims

section BufferBytes

variable {s t : State} {a : Access} {buf : Buf} {off n : Nat} {value : Bytes → Word} {bytes : Word → Bytes}

theorem bufBytesAccess_read_of_holds {bs : Bytes} (hin : off + n ≤ s.params.bufBytes) (hop : a.op = .read)
    (hlen : bs.length = n) (h : s.Holds buf off bs) :
    bufBytesAccess a buf off n value bytes s = .next (s.returned (value bs)) := by
  simp only [bufBytesAccess, (inBounds_iff s off n).2 hin, hop, memRead_of_holds hlen h, if_true]

theorem bufBytesAccess_read_of_lacks (hin : off + n ≤ s.params.bufBytes) (hop : a.op = .read)
    (h : s.Lacks buf off n) : FaultsInRegion (bufBytesAccess a buf off n value bytes s) s buf off n := by
  obtain ⟨k, hread, hlo, hhi, hnone⟩ := memRead_of_lacks h
  refine ⟨k, hlo, hhi, hnone, ?_⟩
  simp only [bufBytesAccess, (inBounds_iff s off n).2 hin, hop, hread, if_true]

theorem memWrite_eq (s : State) (buf : Buf) (k : Nat) (bs : Bytes) :
    memWrite s buf k bs = { s with src := (memWrite s buf k bs).src, dst := (memWrite s buf k bs).dst } := by
  cases buf <;> rfl

/-- A write in bounds stores its bytes and changes nothing else (R72). -/
theorem bufBytesAccess_write {v : Word} (hin : off + n ≤ s.params.bufBytes) (hop : a.op = .write v) :
    ∃ t, bufBytesAccess a buf off n value bytes s = .next t ∧ t = { s with src := t.src, dst := t.dst } ∧
      Stored (s.buffer buf) (t.buffer buf) off (bytes v) ∧ ∀ other, other ≠ buf → t.buffer other = s.buffer other := by
  refine ⟨memWrite s buf off (bytes v), ?_, memWrite_eq s buf off _, memWrite_stores s buf off _⟩
  simp only [bufBytesAccess, (inBounds_iff s off n).2 hin, hop, if_true]

theorem bufBytesAccess_of_outside (h : s.params.bufBytes < off + n) :
    bufBytesAccess a buf off n value bytes s = .fault (.busError a) := by
  rw [bufBytesAccess, if_neg (mt (inBounds_iff s off n).1 (Nat.not_le.2 h))]

theorem bufBytesAccess_read_returns (hop : a.op = .read) (h : bufBytesAccess a buf off n value bytes s = .next t) :
    ∃ v, t = s.returned v := by
  simp only [bufBytesAccess, hop] at h
  split at h
  · split at h <;> cases h
    exact ⟨_, rfl⟩
  · cases h

end BufferBytes

section BufferAccess

variable {s : State} {buf : Buf} {off : Nat} {op : BusOp} {rest : List HostOp}

/-- An 8-bit access in bounds is an access to one byte (R72). -/
theorem step_buffer_byte (hok : s.params.Ok) (hin : off + 1 ≤ s.params.bufBytes)
    (h : s.Issues ⟨s.params.base + bufferBase buf + off, 8, op⟩ rest) :
    step s = bufBytesAccess ⟨s.params.base + bufferBase buf + off, 8, op⟩ buf off 1
      (fun bs => (rd8 bs 0).setWidth 32) (fun v => [v.extractLsb' 0 8]) { s with pending := rest } := by
  obtain ⟨-, -, hmax, -⟩ := hok
  exact step_buffer h (by omega)

/-- An aligned 32-bit access in bounds is an access to four bytes (R72, R76). -/
theorem step_buffer_word (hok : s.params.Ok) (hin : off + 4 ≤ s.params.bufBytes) (halign : off % 4 = 0)
    (h : s.Issues ⟨s.params.base + bufferBase buf + off, 32, op⟩ rest) :
    step s = bufBytesAccess ⟨s.params.base + bufferBase buf + off, 32, op⟩ buf off 4
      (fun bs => rd32 bs 0) be32 { s with pending := rest } := by
  obtain ⟨-, -, hmax, -⟩ := hok
  rw [step_buffer h (by omega), bufAccess, if_neg (show 32 ≠ 8 by decide), if_pos ⟨rfl, halign⟩]

/-- Four bytes are the `be32` of the word they read as (R12, R76). -/
theorem be32_rd32 {bs : Bytes} (h : bs.length = 4) : be32 (rd32 bs 0) = bs := by
  match bs, h with
  | [a, b, c, d], _ =>
    calc be32 (half a b ++ half c d) = be16 (half a b) ++ be16 (half c d) := be32_halves _ _
      _ = [a, b, c, d] := by rw [be16_half, be16_half]; rfl

end BufferAccess

/-- Settles O9: the access reaches the buffer's bytes, where a read answers what they hold and a write stores. -/
theorem bufferAccess : Obligations.BufferAccess := by
  intro s buf off v bs rest hok
  refine ⟨fun hin => ⟨fun hread hlen hholds => ?_, fun hwrite => ?_⟩,
    fun hin halign => ⟨fun hread hlen hholds => ?_, fun hwrite => ?_⟩⟩
  · rw [step_buffer_byte hok hin hread]
    exact bufBytesAccess_read_of_holds hin rfl hlen hholds
  · rw [step_buffer_byte hok hin hwrite]
    exact bufBytesAccess_write hin rfl
  · rw [step_buffer_word hok hin halign hread]
    exact ⟨_, bufBytesAccess_read_of_holds hin rfl hlen hholds, be32_rd32 hlen⟩
  · rw [step_buffer_word hok hin halign hwrite]
    exact bufBytesAccess_write hin rfl

/-- Settles O11: the access reaches the buffer's bytes, and the read meets one that holds no value. -/
theorem unwrittenByteReadFaults : Obligations.UnwrittenByteReadFaults := by
  intro s buf off rest hok
  refine ⟨fun hin hlacks hread => ?_, fun hin halign hlacks hread => ?_⟩
  · rw [step_buffer_byte hok hin hread]
    exact bufBytesAccess_read_of_lacks (s := { s with pending := rest }) hin rfl hlacks
  · rw [step_buffer_word hok hin halign hread]
    exact bufBytesAccess_read_of_lacks (s := { s with pending := rest }) hin rfl hlacks

section BusErrors

variable {s : State} {a : Access} {buf : Buf} {off : Nat}

theorem regMap_offsets : regMap.map Prod.fst = listedOffsets := rfl

theorem atOffset_of_unlisted (h : off ∉ listedOffsets) : Slot.atOffset off = none := by
  rw [Slot.atOffset, Option.map_eq_none_iff, List.find?_eq_none]
  intro e he heq
  exact h (regMap_offsets ▸ beq_iff_eq.1 heq ▸ List.mem_map_of_mem he)

/-- The register accesses that get a bus error (R73, R74). -/
theorem regAccess_busError (h : a.width ≠ 32 ∨ off % 4 ≠ 0 ∨ off ∉ listedOffsets) :
    regAccess a off s = .fault (.busError a) := by
  unfold regAccess
  split
  next hword =>
    obtain hwidth | halign | hlisted := h
    · exact absurd hword.1 hwidth
    · exact absurd hword.2 halign
    · rw [atOffset_of_unlisted hlisted]
  next => rfl

/-- The buffer accesses that get a bus error (R72, R74). -/
theorem bufAccess_busError (h : s.params.bufBytes ≤ off ∨ a.width ≠ 8 ∧ (a.width ≠ 32 ∨ off % 4 ≠ 0)) :
    bufAccess a buf off s = .fault (.busError a) := by
  unfold bufAccess
  split
  next hbyte => exact bufBytesAccess_of_outside (by omega)
  next =>
    split
    next hword => exact bufBytesAccess_of_outside (by omega)
    next => rfl

end BusErrors

/-- Settles O10: in each space of the window, the accesses listed are the ones it does not accept. -/
theorem busErrors : Obligations.BusErrors := by
  intro s off width op rest hoff hissues herr
  rw [step_of_issues_at hissues hoff, windowAccess]
  split
  next hreg =>
    refine regAccess_busError ?_
    by_cases hlisted : off ∈ listedOffsets
    · simp only [hlisted, not_true_eq_false, and_false, false_or] at herr
      dsimp only
      omega
    · exact .inr (.inr hlisted)
  next hreg =>
    have herr : 0x1000 ≤ off ∧ off < 0x20000 ∨ 0x60000 ≤ off ∨
        0x20000 + s.params.bufBytes ≤ off ∧ off < 0x40000 ∨ 0x40000 + s.params.bufBytes ≤ off ∨
        width ≠ 8 ∧ (width ≠ 32 ∨ off % 4 ≠ 0) := by omega
    split
    next hsrc => exact bufAccess_busError (by dsimp only; omega)
    next =>
      split
      next hdst => exact bufAccess_busError (by dsimp only; omega)
      next => rfl

section Reads

variable {s t : State} {a : Access} {off : Nat}

theorem regAccess_read_returns (hop : a.op = .read) (h : regAccess a off s = .next t) :
    ∃ v, t = s.returned v := by
  simp only [regAccess, hop] at h
  split at h
  · split at h <;> cases h
    exact ⟨_, rfl⟩
  · cases h

theorem bufAccess_read_returns {buf : Buf} (hop : a.op = .read) (h : bufAccess a buf off s = .next t) :
    ∃ v, t = s.returned v := by
  unfold bufAccess at h
  split at h
  · exact bufBytesAccess_read_returns hop h
  · split at h
    · exact bufBytesAccess_read_returns hop h
    · cases h

theorem windowAccess_read_returns (hop : a.op = .read) (h : windowAccess a off s = .next t) :
    ∃ v, t = s.returned v := by
  unfold windowAccess at h
  split at h
  · exact regAccess_read_returns hop h
  · split at h
    · exact bufAccess_read_returns hop h
    · split at h
      · exact bufAccess_read_returns hop h
      · cases h

/-- A read that answers returns one value and changes nothing of the block (R81). -/
theorem busAccess_read_returns (hop : a.op = .read) (h : busAccess a s = .next t) : ∃ v, t = s.returned v := by
  unfold busAccess at h
  split at h
  · split at h
    · cases h
    · exact windowAccess_read_returns hop h
  · cases h

end Reads

/-- Settles O12: every space answers a read with `State.returned`. -/
theorem readsHaveNoSideEffect : Obligations.ReadsHaveNoSideEffect := by
  intro s t addr width rest hpending hstep
  simp only [step, hostStep, hpending] at hstep
  exact busAccess_read_returns rfl hstep

end Sys2Proof.Machine
end

section
/-! How a command word ends (60_exceptions.md R266, R268; 20_memory.md R78): the only fault of a command is the read of
a byte with no value. -/

namespace Sys2Proof.Machine

open Sys2Proof

section Faults

variable {s : State} {f : Fault}

/-- The fault of some region read. -/
def ReadFault (s : State) (f : Fault) : Prop := ∃ buf k n, memRead s buf k n = .error f

theorem ReadFault.noValue (h : ReadFault s f) : ∃ buf k, f = .noValue buf k ∧ (s.buffer buf).byteAt k = none := by
  obtain ⟨buf, off, n, hread⟩ := h
  obtain ⟨k, rfl, -, -, hnone, -⟩ := (memRead_eq_error_iff s buf off n f).1 hread
  exact ⟨buf, k, rfl, hnone⟩

theorem csumAddBody_faulted {buf : Buf} (h : csumAddBody buf s = .faulted f) : ReadFault s f := by
  obtain ⟨-, he⟩ | ⟨-, g, hread, he⟩ | ⟨-, b, -, he⟩ := csumAddBody_cases buf s <;> rw [he] at h <;> cases h
  exact ⟨_, _, _, hread⟩

theorem encodeBody_faulted {protoOk : Bool} {layer : Bytes → Layer} (h : encodeBody s protoOk layer = .faulted f) :
    ReadFault s f := by
  obtain ⟨-, he⟩ | ⟨-, -, he⟩ | ⟨-, -, g, hread, he⟩ | ⟨-, -, pay, -, he⟩ := encodeBody_cases s protoOk layer <;>
    rw [he] at h
  · cases h
  · cases h
  · cases h; exact ⟨_, _, _, hread⟩
  · exact absurd h (emit_ne_faulted s _ f)

theorem decodeBody_faulted {minLen : Nat} {layer : Bytes → Updates × Nat}
    (h : decodeBody s minLen layer = .faulted f) : ReadFault s f := by
  obtain ⟨-, he⟩ | ⟨-, -, he⟩ | ⟨-, -, g, hread, he⟩ | ⟨-, -, b, -, he⟩ := decodeBody_cases s minLen layer <;>
    rw [he] at h <;> cases h
  exact ⟨_, _, _, hread⟩

theorem buildBody_faulted (h : buildBody s = .faulted f) : ReadFault s f := by
  obtain ⟨-, he⟩ | ⟨-, -, he⟩ | ⟨-, -, g, hread, he⟩ | ⟨-, -, pay, -, he⟩ := buildBody_cases s <;> rw [he] at h
  · cases h
  · cases h
  · cases h; exact ⟨_, _, _, hread⟩
  · exact absurd h (emit_ne_faulted s _ f)

theorem commandBody_faulted {i : Instr} (h : commandBody s i = .faulted f) : ReadFault s f := by
  cases i with
  | csumAdd => exact csumAddBody_faulted h
  | encEth | encIpv4 | encTcp | encUdp | encIcmp => exact encodeBody_faulted h
  | decEth | decIpv4 | decTcp | decUdp | decIcmp => exact decodeBody_faulted h
  | build => exact buildBody_faulted h
  | csumClear | csumPseudo | csumFinal | selIcmp | selTcp | selUdp | loadDefaults => cases h

theorem exec_faulted {i : Instr} (h : exec i s = .fault f) : ReadFault s f := by
  rw [exec_eq_finish, finish_eq_fault_iff] at h
  exact commandBody_faulted h

theorem exec_ne_refused (i : Instr) (s : State) (r : Refusal) : exec i s ≠ .refused r := by
  rw [exec_eq_finish]
  exact finish_ne_refused s _ r

end Faults

/-- Settles O51: a word that decodes ends as its command does, in a success, an error or a read fault; any other
word is the error ILLEGAL_COMMAND. -/
theorem commandIsAllOrNothing : Obligations.CommandIsAllOrNothing := by
  intro s w
  refine ⟨fun hillegal => runCommand_of_illegal hillegal s, ?_⟩
  cases hd : decode w with
  | error e => exact .inr (.inl ⟨.illegalCommand, by simp only [runCommand, hd]; rfl⟩)
  | ok i =>
    rw [runCommand_of_decode hd]
    cases he : exec i s with
    | next t =>
      cases exec_leaves he with
      | success hw =>
        have hsticky := (State.succeed_errSticky _).trans (commandWrites_errSticky hw)
        exact .inl ⟨i, _, rfl, he, rfl, rfl, hsticky⟩
      | failure e => exact .inr (.inl ⟨e, rfl⟩)
    | fault f =>
      obtain ⟨buf, k, rfl, hnone⟩ := (exec_faulted he).noValue
      exact .inr (.inr ⟨buf, k, rfl, hnone⟩)
    | refused r => exact absurd he (exec_ne_refused i s r)

end Sys2Proof.Machine
end

section
/-! Which command writes which buffer, and where (20_memory.md R80, R82; 70_reset_and_hazards.md R297, R299). -/

namespace Sys2Proof.Machine

open Sys2Proof

/-- The commands that write an output: the encode commands and BUILD (R80). -/
def outputCommands : List Instr := [.encEth, .encIpv4, .encTcp, .encUdp, .encIcmp, .build]

/-- What a command `i` issued in `s` makes of the buffers in a next state `t`. -/
inductive BufferWrites (i : Instr) (s t : State) : Prop where
  | kept (hsrc : t.src = s.src) (hdst : t.dst = s.dst)
  | output (out : Bytes) (hi : i ∈ outputCommands) (hle : out.length ≤ s.params.bufBytes) (hsrc : t.src = s.src)
      (hdst : t.dst = s.dst.writeBytes 0 out) (hlen : t.regs.outLen = BitVec.ofNat 32 out.length)
  | defaults (hi : i = .loadDefaults) (hsrc : t.src = s.src.writeBytes 0 s.params.defaultPayload) (hdst : t.dst = s.dst)

section Buffers

variable {s t u : State} {i : Instr}

theorem csumAddBody_buffers {buf : Buf} (h : csumAddBody buf s = .done u) : BufferWrites i s u := by
  obtain ⟨-, he⟩ | ⟨-, f, -, he⟩ | ⟨-, b, -, he⟩ := csumAddBody_cases buf s <;> rw [he] at h <;> cases h
  exact .kept rfl rfl

theorem decodeBody_buffers {minLen : Nat} {layer : Bytes → Updates × Nat} (h : decodeBody s minLen layer = .done u) :
    BufferWrites i s u := by
  obtain ⟨-, he⟩ | ⟨-, -, he⟩ | ⟨-, -, f, -, he⟩ | ⟨-, -, b, -, he⟩ := decodeBody_cases s minLen layer <;>
    rw [he] at h <;> cases h
  exact .kept rfl rfl

theorem emit_buffers {layer : Layer} (hi : i ∈ outputCommands) (h : emit s layer = .done u) : BufferWrites i s u := by
  obtain ⟨out, res, -, hle, rfl⟩ := emit_eq_done h
  refine .output out hi hle rfl rfl ?_
  rw [memWrite_dst_regs, State.commit_regs, Regs.commit_outLen_of_last]

theorem encodeBody_buffers {protoOk : Bool} {layer : Bytes → Layer} (hi : i ∈ outputCommands)
    (h : encodeBody s protoOk layer = .done u) : BufferWrites i s u := by
  obtain ⟨-, he⟩ | ⟨-, -, he⟩ | ⟨-, -, f, -, he⟩ | ⟨-, -, pay, -, he⟩ := encodeBody_cases s protoOk layer <;>
    rw [he] at h
  · cases h
  · cases h
  · cases h
  · exact emit_buffers hi h

theorem buildBody_buffers (hi : i ∈ outputCommands) (h : buildBody s = .done u) : BufferWrites i s u := by
  obtain ⟨-, he⟩ | ⟨-, -, he⟩ | ⟨-, -, f, -, he⟩ | ⟨-, -, pay, -, he⟩ := buildBody_cases s <;> rw [he] at h
  · cases h
  · cases h
  · cases h
  · exact emit_buffers hi h

theorem commandBody_buffers (h : commandBody s i = .done u) : BufferWrites i s u := by
  cases i with
  | csumClear | csumPseudo | csumFinal | selIcmp | selTcp | selUdp => cases h; exact .kept rfl rfl
  | csumAdd => exact csumAddBody_buffers h
  | encEth | encIpv4 | encTcp | encUdp | encIcmp => exact encodeBody_buffers (by decide) h
  | decEth | decIpv4 | decTcp | decUdp | decIcmp => exact decodeBody_buffers h
  | build => exact buildBody_buffers (by decide) h
  | loadDefaults =>
    cases h
    exact .defaults rfl (by simp only [memWrite_src_src, State.select_src, State.commit_src])
      (by simp only [memWrite_src_dst, State.select_dst, State.commit_dst])

/-- A success writes the buffers as the command's body does; an error leaves them (R266). -/
theorem exec_buffers (h : exec i s = .next t) : BufferWrites i s t := by
  rw [exec_eq_finish, finish_eq_next_iff] at h
  obtain ⟨u, hu, rfl⟩ | ⟨e, -, rfl⟩ := h
  · obtain ⟨hsrc, hdst⟩ | ⟨out, hi, hle, hsrc, hdst, hlen⟩ | ⟨hi, hsrc, hdst⟩ := commandBody_buffers hu
    · exact .kept hsrc hdst
    · exact .output out hi hle hsrc hdst hlen
    · exact .defaults hi hsrc hdst
  · exact .kept rfl rfl

theorem Memory.byteAt_writeBytes_of_ge (m : Memory) {bs : Bytes} {k : Nat} (h : bs.length ≤ k) :
    (m.writeBytes 0 bs).byteAt k = m.byteAt k := by
  rw [Memory.byteAt_writeBytes, if_neg (by omega)]

end Buffers

/-- Settles O54: a command keeps the buffers, or writes an output of OUT_LEN bytes, or writes the default payload. -/
theorem commandBufferWrites : Obligations.CommandBufferWrites := by
  intro i s t hok hexec
  cases exec_buffers hexec with
  | kept hsrc hdst => simp [hsrc, hdst]
  | output out hi hle hsrc hdst hlen =>
    refine ⟨fun _ => hsrc, fun _ _ => by rw [hsrc], fun hnot => absurd hi hnot, fun k hk => ?_⟩
    obtain ⟨-, -, hmax, -⟩ := hok
    rw [hlen, BitVec.toNat_ofNat, Nat.mod_eq_of_lt (by omega)] at hk
    rw [hdst, Memory.byteAt_writeBytes_of_ge _ hk]
  | defaults hi hsrc hdst =>
    refine ⟨fun hnot => absurd hi hnot, fun k hk => ?_, fun _ => hdst, fun _ _ => by rw [hdst]⟩
    rw [hsrc, Memory.byteAt_writeBytes_of_ge _ hk]

end Sys2Proof.Machine
end

section
/-! Command words (30_encoding.md R95, R97, R98). A word matches a row of the opcode table exactly when it is legal and
carries the row's OP, and no two rows share an OP: the row of a word is known by its OP, and its command by its row. -/

namespace Sys2Proof.Machine

open Sys2Proof Sys2Proof.Claims

section Bits

/-- The mask of the low `n` bits keeps the value of these bits. -/
theorem and_lowMask {m : Nat} (n : Nat) (h : n ≤ m) (x : BitVec m) :
    x &&& BitVec.ofNat m (2 ^ n - 1) = (x.setWidth n).setWidth m := by
  apply BitVec.eq_of_toNat_eq
  have hmask : 2 ^ n - 1 < 2 ^ m := by
    have := Nat.pow_le_pow_right (n := 2) (by decide) h
    have := Nat.two_pow_pos n
    omega
  have hlow : x.toNat % 2 ^ n < 2 ^ m := Nat.lt_of_le_of_lt (Nat.mod_le _ _) x.isLt
  rw [BitVec.toNat_and, BitVec.toNat_ofNat, Nat.mod_eq_of_lt hmask, Nat.and_two_pow_sub_one_eq_mod,
    BitVec.toNat_setWidth, BitVec.toNat_setWidth, Nat.mod_eq_of_lt hlow]

theorem and_or_and_not {m : Nat} (x mask : BitVec m) : (x &&& mask) ||| (x &&& ~~~mask) = x := by
  rw [← BitVec.and_or_distrib_left, BitVec.or_not_self, BitVec.and_allOnes]

/-- Two words with the same OP and the same bits beyond it are the same word (R95). -/
theorem eq_of_opField_of_high {x y : Word} (hop : opField x = opField y) (hhigh : x &&& ~~~0xFF = y &&& ~~~0xFF) :
    x = y := by
  have hlow (w : Word) : w &&& 0xFF = (opField w).setWidth 32 := by
    rw [opField, ← BitVec.setWidth_eq_extractLsb' (by decide)]
    exact and_lowMask 8 (by decide) w
  rw [← and_or_and_not x 0xFF, ← and_or_and_not y 0xFF, hlow, hlow, hop, hhigh]

end Bits

section Rows

variable {w : Word} {row row' : OpRow}

theorem opTable_ops : opTable.map (fun row => opField row.pat) = [0x01, 0x02, 0x03, 0x04, 0x10, 0x11, 0x12, 0x13, 0x14,
    0x20, 0x21, 0x22, 0x23, 0x24, 0x30, 0x31, 0x32, 0x40, 0x41] := rfl

/-- A row is known by its OP. -/
theorem opTable_row_unique (hrow : row ∈ opTable) (hrow' : row' ∈ opTable)
    (hop : opField row.pat = opField row'.pat) : row = row' := by
  have hnodup : (opTable.map fun row => opField row.pat).Nodup := by rw [opTable_ops]; decide
  obtain ⟨j, hj, rfl⟩ := List.getElem_of_mem hrow
  obtain ⟨k, hk, rfl⟩ := List.getElem_of_mem hrow'
  have hjk : j = k := by
    refine (List.getElem_inj (h₀ := by rwa [List.length_map]) (h₁ := by rwa [List.length_map]) hnodup).1 ?_
    rwa [List.getElem_map, List.getElem_map]
  subst hjk
  rfl

theorem opField_of_matches (hrow : row ∈ opTable) (hw : w &&& row.mask = row.pat) : opField w = opField row.pat := by
  obtain ⟨-, hlow, -, -⟩ := opTable_columns row hrow
  rw [← hw, opField_and, hlow]
  exact BitVec.and_allOnes.symm

/-- The match and mask columns of R98 say what R97's formula says. -/
theorem matches_iff (hrow : row ∈ opTable) :
    w &&& row.mask = row.pat ↔ legal w = true ∧ opField w = opField row.pat := by
  refine ⟨fun hw => ⟨legal_of_matches hrow hw, opField_of_matches hrow hw⟩, fun ⟨hlegal, hop⟩ => ?_⟩
  obtain ⟨-, hlow, hmask, hpat⟩ := opTable_columns row hrow
  simp only [legal, Bool.and_eq_true, beq_iff_eq] at hlegal
  refine eq_of_opField_of_high ?_ ?_
  · rw [opField_and, hlow, hop]
    exact BitVec.and_allOnes
  · rw [BitVec.and_assoc, hmask, hpat, ← hop]
    exact hlegal.2

theorem exists_row_of_legal (h : legal w = true) : ∃ row ∈ opTable, w &&& row.mask = row.pat := by
  have hop : opField w ∈ opTable.map (fun row => opField row.pat) := by
    rw [opTable_ops]
    simp only [legal, Bool.and_eq_true] at h
    exact List.contains_iff_mem.1 h.1
  obtain ⟨row, hrow, hfield⟩ := List.mem_map.1 hop
  exact ⟨row, hrow, (matches_iff hrow).2 ⟨h, hfield.symm⟩⟩

theorem exists_row_of_decode {i : Instr} (h : decode w = .ok i) :
    ∃ row ∈ opTable, w &&& row.mask = row.pat ∧ row.make w = i := by
  unfold decode at h
  split at h
  next row hfind =>
    cases h
    exact ⟨row, List.mem_of_find?_eq_some hfind, by simpa using List.find?_some hfind, rfl⟩
  next => split at h <;> cases h

/-- The decoder answers the command of the row a word matches. -/
theorem decode_of_matches (hrow : row ∈ opTable) (hw : w &&& row.mask = row.pat) : decode w = .ok (row.make w) := by
  unfold decode
  split
  next row' hfind =>
    have hrow' := List.mem_of_find?_eq_some hfind
    have hop' := opField_of_matches hrow' (by simpa using List.find?_some hfind)
    rw [opTable_row_unique hrow hrow' ((opField_of_matches hrow hw).symm.trans hop')]
  next hnone => simpa [hw] using List.find?_eq_none.1 hnone row hrow

/-- The command a row makes carries the row's OP. -/
theorem opOf_make (hrow : row ∈ opTable) (w : Word) : opOf (row.make w) = opField row.pat := by
  revert row
  simp [opTable, checksumRows, encodeRows, decodeRows, builderRows, opOf, opField]

end Rows

section Operands

theorem encode_csumAdd_bselField (w : Word) : encode (.csumAdd (bselField w)) = 0x02 ||| (w &&& 0x100) := by
  rw [show (0x100 : Word) = BitVec.twoPow 32 8 from rfl, BitVec.and_twoPow, bselField]
  cases w.getLsbD 8 <;> rfl

theorem encode_csumFinal_zfField (w : Word) : encode (.csumFinal (zfField w)) = 0x04 ||| (w &&& 0x200) := by
  rw [show (0x200 : Word) = BitVec.twoPow 32 9 from rfl, BitVec.and_twoPow, zfField]
  cases w.getLsbD 9 <;> rfl

theorem encode_csumPseudo_protoField (w : Word) :
    encode (.csumPseudo (protoField w)) = 0x03 ||| (w &&& 0x00FF0000) := by
  have hbits : (protoField w).setWidth 32 <<< 16 = w &&& 0x00FF0000 := by
    apply BitVec.eq_of_getLsbD_eq
    intro k hk
    have hmask : (0x00FF0000 : Word).getLsbD k = decide (16 ≤ k ∧ k < 24) := by revert k; decide
    rw [BitVec.getLsbD_and, hmask]
    by_cases hlo : 16 ≤ k
    · by_cases hhi : k < 24
      · simp [protoField, hk, hlo, hhi, show 16 + (k - 16) = k by omega, show k - 16 < 8 by omega]
      · simp [protoField, hlo, hhi, show ¬ k - 16 < 8 by omega]
    · simp [hlo, Nat.lt_of_not_le hlo]
  rw [← hbits]
  rfl

/-- The word of a row's command carries the OP of the row and every bit its mask leaves free. -/
theorem encode_make {row : OpRow} (hrow : row ∈ opTable) (w : Word) :
    encode (row.make w) = row.pat ||| (w &&& ~~~row.mask) := by
  simp only [opTable, List.mem_append] at hrow
  obtain ((hrow | hrow) | hrow) | hrow := hrow
  · simp only [checksumRows, List.mem_cons, List.not_mem_nil, or_false] at hrow
    obtain rfl | rfl | rfl | rfl := hrow
    · simp [encode]
    · exact encode_csumAdd_bselField w
    · exact encode_csumPseudo_protoField w
    · exact encode_csumFinal_zfField w
  · revert row; simp [encodeRows, encode]
  · revert row; simp [decodeRows, encode]
  · revert row; simp [builderRows, encode]

theorem protoField_encode (proto : Byte) : protoField (encode (.csumPseudo proto)) = proto := by
  change ((0x03 : Word) ||| proto.setWidth 32 <<< 16).extractLsb' 16 8 = proto
  apply BitVec.eq_of_getLsbD_eq
  intro k hk
  have hpat : (0x03 : Word).getLsbD (16 + k) = false := by revert k; decide
  rw [BitVec.getLsbD_extractLsb', BitVec.getLsbD_or, hpat]
  simp [hk, show 16 + k < 32 by omega]

end Operands

/-- Settles O1: the word of CSUM_PSEUDO is legal and has its OP, so it matches the row of R98; the words of the other
commands are finitely many. -/
theorem decodeOfEncodeIsTheCommand : Obligations.DecodeOfEncodeIsTheCommand := by
  intro i
  cases i with
  | csumAdd buf => cases buf <;> rfl
  | csumFinal zf => cases zf <;> rfl
  | csumPseudo proto =>
    obtain ⟨hop, hlegal⟩ := Laws.EncodedWordLegal.csumPseudo proto
    have hrow : ⟨0x03, 0xFF00FFFF, fun w => .csumPseudo (protoField w)⟩ ∈ opTable := by
      simp [opTable, checksumRows]
    calc decode (encode (.csumPseudo proto))
      _ = .ok (.csumPseudo (protoField (encode (.csumPseudo proto)))) :=
        decode_of_matches hrow ((matches_iff hrow).2 ⟨hlegal, hop⟩)
      _ = .ok (.csumPseudo proto) := by rw [protoField_encode]
  | _ => rfl

/-- Settles O2: the row of the word fixes the bits of its mask, and the encoder writes the rest back. -/
theorem encodeOfDecodedIsTheWord : Obligations.EncodeOfDecodedIsTheWord := by
  intro w i h
  obtain ⟨row, hrow, hw, rfl⟩ := exists_row_of_decode h
  rw [encode_make hrow, ← hw, and_or_and_not]

/-- The table of R98 as the statement writes it is the decoder's own. -/
theorem opcodeMap_eq : opcodeMap = opTable.map fun row => (row.pat, row.mask, opField row.pat) := rfl

/-- Settles O3: legal words match a row, matching words are legal, and the row of a word is known by its OP. -/
theorem legalWordsAreTheCommands : Obligations.LegalWordsAreTheCommands := by
  intro w
  refine ⟨⟨fun h => ?_, fun ⟨i, h⟩ => legal_of_decode h⟩, fun h s => runCommand_of_illegal h s, ?_⟩
  · obtain ⟨row, hrow, hw⟩ := exists_row_of_legal h
    exact ⟨row.make w, decode_of_matches hrow hw⟩
  · rw [opcodeMap_eq, List.forall_mem_map]
    intro row hrow
    refine ⟨fun hw => ⟨row.make w, decode_of_matches hrow hw, opOf_make hrow w⟩, fun ⟨i, hd, hop⟩ => ?_⟩
    obtain ⟨row', hrow', hw', rfl⟩ := exists_row_of_decode hd
    rwa [opTable_row_unique hrow hrow' (hop.symm.trans (opOf_make hrow' w))]

/-- Settles O4: the decoder runs on each word. -/
theorem sampleWordsDecode : Obligations.SampleWordsDecode :=
  ⟨rfl, rfl, rfl, rfl, rfl, rfl, rfl, rfl⟩

end Sys2Proof.Machine
end

section
/-! The decode commands (42_decode.md R200 to R209): what a decode of a readable input leaves, and the fields the layers
cut out of a byte or a half. -/

namespace Sys2Proof.Machine

open Sys2Proof Sys2Proof.Claims

section Fields

theorem setWidth_and_lowMask {m : Nat} (n : Nat) (h : n ≤ m) (x : BitVec m) :
    (x &&& BitVec.ofNat m (2 ^ n - 1)).setWidth n = x.extractLsb' 0 n := by
  rw [and_lowMask n h, BitVec.setWidth_setWidth_of_le _ h, BitVec.setWidth_eq, BitVec.setWidth_eq_extractLsb' h]

theorem setWidth_ushiftRight_eq_extractLsb' {m : Nat} (x : BitVec m) (start n : Nat) :
    (x >>> start).setWidth n = x.extractLsb' start n := by
  apply BitVec.eq_of_getLsbD_eq
  intro k hk
  simp [hk]

/-- The three flags of an IPv4 header (30_encoding.md R113). -/
theorem ipFlags_of_fragWord (fw : Half) : (fw >>> 13).setWidth 3 = fw.extractLsb' 13 3 :=
  setWidth_ushiftRight_eq_extractLsb' fw 13 3

theorem ipFrag_of_fragWord (fw : Half) : (fw &&& 0x1FFF).setWidth 13 = fw.extractLsb' 0 13 :=
  setWidth_and_lowMask 13 (by decide) fw

theorem tcpHlen_of_offsetFlags (ow : Half) : (ow >>> 9).setWidth 7 = ow.extractLsb' 9 7 :=
  setWidth_ushiftRight_eq_extractLsb' ow 9 7

theorem tcpFlags_of_offsetFlags (ow : Half) : (ow &&& 0x1FF).setWidth 9 = ow.extractLsb' 0 9 :=
  setWidth_and_lowMask 9 (by decide) ow

/-- IHL as the decoder counts it (R203). -/
theorem ihl_toNat (v : Byte) : (v &&& 0x0F).toNat * 4 = 4 * (v.extractLsb' 0 4).toNat := by
  have hlow : v &&& 0x0F = (v.setWidth 4).setWidth 8 := and_lowMask 4 (by decide) v
  rw [hlow, BitVec.toNat_setWidth_of_le (by decide), BitVec.setWidth_eq_extractLsb' (by decide), Nat.mul_comm]

/-- The data offset as the decoder counts it (R205). -/
theorem dataOffset_toNat (ow : Half) : (ow >>> 12).toNat * 4 = 4 * (ow.extractLsb' 12 4).toNat := by
  have hlt := ow.isLt
  rw [BitVec.toNat_ushiftRight, BitVec.extractLsb'_toNat, Nat.mul_comm, Nat.mod_eq_of_lt]
  rw [Nat.shiftRight_eq_div_pow]
  omega

end Fields

section Decode

variable {s : State} {b : Bytes} {i : Instr} {minLen : Nat} {layer : Bytes → Updates × Nat}

/-- A header of `hl` bytes moves the payload region that far into the input region (R200). -/
theorem payloadRegion_eq (s : State) (hl : Nat) : payloadRegion s hl =
    [(.payOff, s.regs.inOff + BitVec.ofNat 32 (min hl s.regs.inLen.toNat)),
      (.payLen, s.regs.inLen - BitVec.ofNat 32 (min hl s.regs.inLen.toNat))] := by
  have hle : min hl s.regs.inLen.toNat ≤ s.regs.inLen.toNat := Nat.min_le_right _ _
  have hlt := Nat.lt_of_le_of_lt hle s.regs.inLen.isLt
  simp only [payloadRegion, BitVec.ofNat_add, ← BitVec.ofNat_sub_ofNat_of_le _ _ hlt hle, BitVec.ofNat_toNat,
    BitVec.setWidth_eq]

/-- A decode command with a readable input of the minimum length succeeds: it leaves the layer's fields and, with `k`
the smaller of the header's length and the input's, the payload region behind the header (R200). -/
theorem completes_of_decodeBody (hi : commandBody s i = decodeBody s minLen layer) (hin : s.InputIs b)
    (hlen : minLen ≤ b.length) {k : Nat} (hk : min (layer b).2 b.length = k) :
    Completes i s (s.regs.commit ((layer b).1 ++
      [(.payOff, s.regs.inOff + BitVec.ofNat 32 k), (.payLen, s.regs.inLen - BitVec.ofNat 32 k)])) := by
  obtain ⟨hbounds, hb, -⟩ := id hin
  have hdone := decodeBody_of_read (layer := layer) ((inputInBounds_iff s).2 hbounds) (hb ▸ hlen)
    (readInput_of_inputIs hin)
  rw [Completes, exec_eq_finish, hi, hdone, payloadRegion_eq, ← hb, hk]
  rfl

end Decode

/-- Settles O33: the header is 14 bytes long. -/
theorem decEthMeaning : Obligations.DecEthMeaning := by
  intro s b hin hlen
  have h := completes_of_decodeBody (i := .decEth) rfl hin hlen (Nat.min_eq_left hlen)
  simpa [gEth, Regs.commit, Regs.set] using h

/-- Settles O34: the header is as long as IHL says, within the input. -/
theorem decIpv4Meaning : Obligations.DecIpv4Meaning := by
  intro s b hin hlen k
  have h := completes_of_decodeBody (i := .decIpv4) rfl hin hlen (k := k)
    (congrArg (min · b.length) (ihl_toNat (rd8 b 0)))
  simpa only [gIpv4, List.cons_append, List.nil_append, Regs.commit, Regs.set, Nat.reduceLeDiff,
    BitVec.setWidth_setWidth_of_le, BitVec.setWidth_eq, ipFlags_of_fragWord, ipFrag_of_fragWord] using h

/-- Settles O35: the header is as long as the data offset says, within the input. -/
theorem decTcpMeaning : Obligations.DecTcpMeaning := by
  intro s b hin hlen k
  have h := completes_of_decodeBody (i := .decTcp) rfl hin hlen (k := k)
    (congrArg (min · b.length) (dataOffset_toNat (rd16 b 12)))
  simpa only [gTcp, List.cons_append, List.nil_append, Regs.commit, Regs.set, Nat.reduceLeDiff,
    BitVec.setWidth_setWidth_of_le, BitVec.setWidth_eq, tcpHlen_of_offsetFlags, tcpFlags_of_offsetFlags] using h

/-- Settles O36: the header is 8 bytes long. -/
theorem decUdpMeaning : Obligations.DecUdpMeaning := by
  intro s b hin hlen
  have h := completes_of_decodeBody (i := .decUdp) rfl hin hlen (Nat.min_eq_left hlen)
  simpa [gUdp, Regs.commit, Regs.set] using h

/-- Settles O37: the header is 8 bytes long. -/
theorem decIcmpMeaning : Obligations.DecIcmpMeaning := by
  intro s b hin hlen
  have h := completes_of_decodeBody (i := .decIcmp) rfl hin hlen (Nat.min_eq_left hlen)
  simpa [gIcmp, Regs.commit, Regs.set] using h

end Sys2Proof.Machine
end

section
/-! The layers as the wire lays them out (30_encoding.md R110 to R118), and what an encode command or BUILD with a
payload that fits leaves (41_encode.md R170; 43_builder.md R240). -/

namespace Sys2Proof.Machine

open Sys2Proof Sys2Proof.Claims

section Layouts

variable (rs : Regs) (proto : Byte) (pay : Bytes)

/-- Flags above fragment offset (R113). -/
theorem fragWord_eq : fragWord rs = rs.ipFlags ++ rs.ipFrag := by
  rw [← BitVec.setWidth_eq (rs.ipFlags ++ rs.ipFrag)]
  exact BitVec.setWidth_append_eq_shiftLeft_setWidth_or.symm

/-- Data offset 5, three zeros, flags (R115). -/
theorem offsetFlagsWord_eq : offsetFlagsWord rs = (5 : BitVec 4) ++ (0 : BitVec 3) ++ rs.tcpFlags := by
  have hoffset : (5 : Half) <<< 12 = ((5 : BitVec 4) ++ (0 : BitVec 3)).setWidth 16 <<< 9 := by decide
  rw [offsetFlagsWord, hoffset, ← BitVec.setWidth_eq ((5 : BitVec 4) ++ (0 : BitVec 3) ++ rs.tcpFlags)]
  exact BitVec.setWidth_append_eq_shiftLeft_setWidth_or.symm

theorem ipHeader_eq (totlen csum : Half) : ipHeader rs proto totlen csum = ipv4Header rs proto totlen csum := by
  rw [ipHeader, ipv4Header, fragWord_eq]

theorem tcpHeader_eq (csum : Half) : tcpHeader rs csum = tcpHeaderBytes rs csum := by
  rw [tcpHeader, tcpHeaderBytes, offsetFlagsWord_eq]

theorem ethFrame_eq (etype : Half) : ethFrame rs etype pay = ethHeader rs etype ++ pay := rfl

@[simp] theorem ethHeader_length (etype : Half) : (ethHeader rs etype).length = 14 := rfl

@[simp] theorem ipv4Packet_length : (ipv4Packet rs proto pay).length = 20 + pay.length := by
  rw [ipv4Packet, List.length_append]; rfl

@[simp] theorem tcpSegment_length : (tcpSegment rs pay).length = 20 + pay.length := by
  rw [tcpSegment, List.length_append]; rfl

@[simp] theorem udpDatagram_length : (udpDatagram rs pay).length = 8 + pay.length := by
  rw [udpDatagram, List.length_append]; rfl

@[simp] theorem icmpMessage_length : (icmpMessage rs pay).length = 8 + pay.length := by
  rw [icmpMessage, List.length_append]; rfl

@[simp] theorem frame_length : (frame rs proto pay).length = 34 + pay.length := by
  rw [frame, List.length_append, ethHeader_length, ipv4Packet_length]; omega

end Layouts

section Layers

variable (rs : Regs) (proto : Byte) (pay : Bytes)

/-- The result registers of an IPv4 packet around `pay` (R172). -/
def ipv4Results : Updates :=
  [(.ipVerIhl, 0x45), (.ipTotlen, (BitVec.ofNat 16 (20 + pay.length)).setWidth 32),
    (.ipCsum, (ipv4Csum rs proto (BitVec.ofNat 16 (20 + pay.length))).setWidth 32)]

/-- The result registers of the transport of a selection (R175, R178, R182). -/
def transportUpdates : TSel → Updates
  | .none => []
  | .icmp => [(.icmpCsum, (icmpMessageCsum rs pay).setWidth 32)]
  | .tcp => [(.tcpHlen, 0x28), (.tcpCsum, (tcpSegmentCsum rs pay).setWidth 32)]
  | .udp => [(.udpLen, (BitVec.ofNat 16 (8 + pay.length)).setWidth 32),
      (.udpCsum, (udpDatagramCsum rs pay).setWidth 32)]

theorem fIpv4_layout : fIpv4 rs proto pay =
    if 0xFFFF < 20 + pay.length then .error .lengthOverflow
    else .ok (ipv4Packet rs proto pay, ipv4Results rs proto pay) := by
  simp only [fIpv4_eq, ipHeader_eq]
  rfl

theorem fTcp_layout : fTcp rs pay =
    if 0xFFFF < 20 + pay.length then .error .lengthOverflow
    else .ok (tcpSegment rs pay, transportUpdates rs pay .tcp) := by
  simp only [fTcp, tcpCsum, tcpHeader_eq, ← List.append_assoc]
  rfl

theorem fUdp_layout : fUdp rs pay =
    if 0xFFFF < 8 + pay.length then .error .lengthOverflow
    else .ok (udpDatagram rs pay, transportUpdates rs pay .udp) := by
  simp only [fUdp, udpCsum, ← List.append_assoc]
  rfl

theorem fIcmp_layout : fIcmp rs pay = .ok (icmpMessage rs pay, transportUpdates rs pay .icmp) := rfl

/-- The transport of BUILD: only ICMP has no length field to overflow (R175, R178, R182). -/
theorem transportLayer_layout {sel : TSel} (hsel : sel ≠ .none) : transportLayer rs sel pay =
    if sel ≠ .icmp ∧ 0xFFFF < (transportBytes rs sel pay).length then .error .lengthOverflow
    else .ok (transportBytes rs sel pay, transportUpdates rs pay sel) := by
  cases sel with
  | none => exact absurd rfl hsel
  | icmp => rfl
  | tcp => simpa [transportBytes, transportLayer] using fTcp_layout rs pay
  | udp => simpa [transportBytes, transportLayer] using fUdp_layout rs pay

/-- The frame of BUILD, within the length an IPv4 packet can say (R240, R245). -/
theorem buildLayer_layout {sel : TSel} (hsel : sel ≠ .none) : buildLayer rs sel pay =
    if 0xFFFF < 20 + (transportBytes rs sel pay).length then .error .lengthOverflow
    else .ok (frame rs sel.code (transportBytes rs sel pay),
      transportUpdates rs pay sel ++ ipv4Results rs sel.code (transportBytes rs sel pay)) := by
  rw [buildLayer, transportLayer_layout rs pay hsel]
  by_cases ht : sel ≠ .icmp ∧ 0xFFFF < (transportBytes rs sel pay).length
  · rw [if_pos ht, if_pos (by omega)]
  · rw [if_neg ht]
    simp only [frameLayer, fIpv4_layout]
    by_cases hl : 0xFFFF < 20 + (transportBytes rs sel pay).length
    · simp only [if_pos hl]
    · simp only [if_neg hl]
      rfl

end Layers

section Emits

variable {s : State} {pay out : Bytes} {i : Instr} {res : Updates}

theorem payloadInBounds_of_payloadIs (h : s.PayloadIs pay) : payloadInBounds s = true :=
  (payloadInBounds_iff s).2 h.1

/-- An output that fits is stored with its length and result registers. -/
theorem emits_of_emit (hi : commandBody s i = emit s (.ok (out, res))) (hle : out.length ≤ s.params.bufBytes) :
    Emits i s (s.regs.commit (res ++ [(.outLen, BitVec.ofNat 32 out.length)])) out := by
  refine ⟨s.dst.writeBytes 0 out, ?_, Memory.byteAt_writeBytes s.dst 0 out⟩
  rw [exec_eq_finish, hi, emit_ok_of_le s res hle]
  rfl

/-- An encode command with a readable payload and a layer that gives bytes (R170). -/
theorem emits_of_encodeBody {protoOk : Bool} {layer : Bytes → Layer}
    (hi : commandBody s i = encodeBody s protoOk layer) (hpay : s.PayloadIs pay) (hproto : protoOk = true)
    (hlayer : layer pay = .ok (out, res)) (hle : out.length ≤ s.params.bufBytes) :
    Emits i s (s.regs.commit (res ++ [(.outLen, BitVec.ofNat 32 out.length)])) out := by
  refine emits_of_emit ?_ hle
  rw [hi, encodeBody_of_read (payloadInBounds_of_payloadIs hpay) hproto (readPayload_of_payloadIs hpay), hlayer]

end Emits

/-- Settles O24: the Ethernet layer gives its header and the payload, and no result registers. -/
theorem encEthMeaning : Obligations.EncEthMeaning := by
  intro s pay hpay hle
  have h := emits_of_encodeBody (i := .encEth) rfl hpay rfl rfl (by simpa [ethFrame_eq] using hle)
  simpa [ethFrame_eq, Regs.commit, Regs.set] using h

theorem knownProto_of_accepted {s : State} (h : protoAccepted .encIpv4 s) : knownProto s.regs.ipProto = true := by
  simpa [knownProto, or_assoc] using h rfl

/-- Settles O25: the IPv4 layer gives the packet, within its 16-bit length. -/
theorem encIpv4Meaning : Obligations.EncIpv4Meaning := by
  intro s pay hpay hproto hlen hle
  have h := emits_of_encodeBody (i := .encIpv4) rfl hpay (knownProto_of_accepted hproto)
    ((fIpv4_layout _ _ _).trans (if_neg (Nat.not_lt.2 hlen))) (by simpa using hle)
  simpa [ipv4Results, Regs.commit, Regs.set] using h

/-- Settles O26: the TCP layer gives the segment, within its 16-bit length. -/
theorem encTcpMeaning : Obligations.EncTcpMeaning := by
  intro s pay hpay hlen hle
  have h := emits_of_encodeBody (i := .encTcp) rfl hpay rfl
    ((fTcp_layout _ _).trans (if_neg (Nat.not_lt.2 hlen))) (by simpa using hle)
  simpa [transportUpdates, Regs.commit, Regs.set] using h

/-- Settles O27: the UDP layer gives the datagram, within its 16-bit length. -/
theorem encUdpMeaning : Obligations.EncUdpMeaning := by
  intro s pay hpay hlen hle
  have h := emits_of_encodeBody (i := .encUdp) rfl hpay rfl
    ((fUdp_layout _ _).trans (if_neg (Nat.not_lt.2 hlen))) (by simpa using hle)
  simpa [transportUpdates, Regs.commit, Regs.set] using h

/-- Settles O28: the ICMP layer gives the message, whatever its length. -/
theorem encIcmpMeaning : Obligations.EncIcmpMeaning := by
  intro s pay hpay hle
  have h := emits_of_encodeBody (i := .encIcmp) rfl hpay rfl (fIcmp_layout _ _) (by simpa using hle)
  simpa [transportUpdates, Regs.commit, Regs.set] using h

section Build

variable {s : State} {pay : Bytes}

theorem buildBody_of_read (hsel : s.tsel ≠ .none) (hpay : s.PayloadIs pay) :
    buildBody s = emit s (buildLayer s.regs s.tsel pay) := by
  simp [buildBody, hsel, payloadInBounds_of_payloadIs hpay, readPayload_of_payloadIs hpay]

/-- BUILD with a readable payload whose frame fits (R240). -/
theorem emits_of_build {sel : TSel} {transport : Bytes} (hsel : s.tsel = sel) (hne : sel ≠ .none)
    (hpay : s.PayloadIs pay) (htransport : transportBytes s.regs sel pay = transport)
    (hlen : 20 + transport.length ≤ 0xFFFF) (hle : 34 + transport.length ≤ s.params.bufBytes) :
    Emits .build s (s.regs.commit (transportUpdates s.regs pay sel ++ ipv4Results s.regs sel.code transport ++
      [(.outLen, BitVec.ofNat 32 (34 + transport.length))])) (frame s.regs sel.code transport) := by
  subst hsel htransport
  have hread := buildBody_of_read hne hpay
  rw [buildLayer_layout _ _ hne, if_neg (Nat.not_lt.2 hlen)] at hread
  rw [← frame_length s.regs s.tsel.code] at hle ⊢
  exact emits_of_emit hread hle

/-- Settles O41: the transport is the TCP segment. -/
theorem buildTcpMeaning : Obligations.BuildTcpMeaning := by
  intro s pay hsel hpay hlen hle
  have h := emits_of_build (transport := tcpSegment s.regs pay) hsel nofun hpay rfl
    (by rw [tcpSegment_length]; omega) (by rw [tcpSegment_length]; omega)
  simpa [transportUpdates, ipv4Results, builtRegs, TSel.code, Regs.commit, Regs.set] using h

/-- Settles O42: the transport is the UDP datagram. -/
theorem buildUdpMeaning : Obligations.BuildUdpMeaning := by
  intro s pay hsel hpay hlen hle
  have h := emits_of_build (transport := udpDatagram s.regs pay) hsel nofun hpay rfl
    (by rw [udpDatagram_length]; omega) (by rw [udpDatagram_length]; omega)
  simpa [transportUpdates, ipv4Results, builtRegs, TSel.code, Regs.commit, Regs.set] using h

/-- Settles O43: the transport is the ICMP message. -/
theorem buildIcmpMeaning : Obligations.BuildIcmpMeaning := by
  intro s pay hsel hpay hlen hle
  have h := emits_of_build (transport := icmpMessage s.regs pay) hsel nofun hpay rfl
    (by rw [icmpMessage_length]; omega) (by rw [icmpMessage_length]; omega)
  simpa [transportUpdates, ipv4Results, builtRegs, TSel.code, Regs.commit, Regs.set] using h

end Build

end Sys2Proof.Machine
end

section
/-! What a success of an encode command or of BUILD says (41_encode.md R170; 43_builder.md R240), and the UDP checksum
on the wire (41_encode.md R180). -/

namespace Sys2Proof.Machine

open Sys2Proof Sys2Proof.Claims

section Success

variable {s t u : State} {i : Instr}

/-- A next state without an error code is what the command's body left, recorded as a success (R266). -/
theorem exec_eq_next_of_success (ht : t.errcode = none) (h : exec i s = .next t) :
    ∃ u, commandBody s i = .done u ∧ t = u.succeed := by
  rw [exec_eq_finish, finish_eq_next_iff] at h
  obtain hdone | ⟨e, -, rfl⟩ := h
  · exact hdone
  · cases ht

theorem payloadIs_of_read {pay : Bytes} (hb : payloadInBounds s = true) (hr : readPayload s = .ok pay) :
    s.PayloadIs pay :=
  ⟨(payloadInBounds_iff s).1 hb, (memRead_eq_ok_iff _ _ _ _ _).1 hr⟩

theorem encodeBody_eq_done {protoOk : Bool} {layer : Bytes → Layer} (h : encodeBody s protoOk layer = .done u) :
    protoOk = true ∧ ∃ pay, s.PayloadIs pay ∧ emit s (layer pay) = .done u := by
  obtain ⟨-, he⟩ | ⟨-, -, he⟩ | ⟨-, -, f, -, he⟩ | ⟨hb, hp, pay, hr, he⟩ :=
    encodeBody_cases s protoOk layer <;> rw [he] at h
  · cases h
  · cases h
  · cases h
  · exact ⟨hp, pay, payloadIs_of_read hb hr, h⟩

theorem buildBody_eq_done (h : buildBody s = .done u) :
    s.tsel ≠ .none ∧ ∃ pay, s.PayloadIs pay ∧ emit s (buildLayer s.regs s.tsel pay) = .done u := by
  obtain ⟨-, he⟩ | ⟨-, -, he⟩ | ⟨-, -, f, -, he⟩ | ⟨hsel, hb, pay, hr, he⟩ := buildBody_cases s <;>
    rw [he] at h
  · cases h
  · cases h
  · cases h
  · exact ⟨hsel, pay, payloadIs_of_read hb hr, h⟩

end Success

section UdpChecksum

variable {s t : State} {x y out : Bytes}

theorem udpDatagramCsum_ne_zero (rs : Regs) (pay : Bytes) : udpDatagramCsum rs pay ≠ 0 := by
  unfold udpDatagramCsum
  split
  next => decide
  next hraw => exact hraw

/-- DST_BUF holds each part of the bytes written to it. -/
theorem holds_of_written {m : Memory} {b : Bytes} (ht : t.dst = m.writeBytes 0 (x ++ b ++ y)) :
    t.Holds .dst x.length b := by
  intro k hk
  have hlen : x.length + k < (x ++ b ++ y).length := by
    simp only [List.length_append]
    omega
  rw [State.buffer_dst, ht, Memory.byteAt_writeBytes, if_pos ⟨Nat.zero_le _, by omega⟩, List.append_assoc,
    Nat.sub_zero, List.getElem?_append_right (Nat.le_add_right _ _), Nat.add_sub_cancel_left,
    List.getElem?_append_left hk, List.getElem?_eq_getElem hk]

/-- An output with the nonzero checksum of a UDP datagram in it, and the same checksum in UDP_CSUM. -/
theorem written_udpCsum {res : Updates} {n : Word} {rs : Regs} {pay : Bytes}
    (hcsum : (s.regs.commit (res ++ [(.outLen, n)])).udpCsum = udpDatagramCsum rs pay)
    (hout : out = x ++ be16 (udpDatagramCsum rs pay) ++ y)
    (ht : t = (memWrite (s.commit (res ++ [(.outLen, n)])) .dst 0 out).succeed) :
    t.regs.udpCsum ≠ 0 ∧ t.Holds .dst x.length (be16 t.regs.udpCsum) := by
  have hreg : t.regs.udpCsum = udpDatagramCsum rs pay := by rw [ht]; exact hcsum
  rw [hreg]
  exact ⟨udpDatagramCsum_ne_zero rs pay, holds_of_written (m := s.dst) (y := y) (by rw [ht, ← hout]; rfl)⟩

end UdpChecksum

/-- The bytes of a UDP datagram before its checksum field (30_encoding.md R116). -/
def udpPrefix (rs : Regs) (pay : Bytes) : Bytes :=
  be16 rs.udpSport ++ be16 rs.udpDport ++ be16 (BitVec.ofNat 16 (8 + pay.length))

theorem udpDatagram_eq (rs : Regs) (pay : Bytes) :
    udpDatagram rs pay = udpPrefix rs pay ++ be16 (udpDatagramCsum rs pay) ++ pay := rfl

/-- The bytes of a frame before its transport (43_builder.md R241). -/
def frameHeaders (rs : Regs) (proto : Byte) (transport : Bytes) : Bytes :=
  ethHeader rs 0x0800 ++ ipv4Header rs proto (BitVec.ofNat 16 (20 + transport.length))
    (ipv4Csum rs proto (BitVec.ofNat 16 (20 + transport.length)))

theorem frame_eq (rs : Regs) (proto : Byte) (transport : Bytes) :
    frame rs proto transport = frameHeaders rs proto transport ++ transport :=
  (List.append_assoc _ _ _).symm

/-- Settles O31: both commands write the datagram's checksum under the zero rule, 6 bytes into the datagram, and BUILD
puts the 34 bytes of the outer headers in front. -/
theorem udpChecksumNeverZero : Obligations.UdpChecksumNeverZero := by
  refine fun s t ht => ⟨fun h => ?_, fun hsel h => ?_⟩
  · obtain ⟨u, hu, rfl⟩ := exec_eq_next_of_success ht h
    obtain ⟨-, pay, -, hemit⟩ := encodeBody_eq_done hu
    obtain ⟨out, res, hlayer, -, rfl⟩ := emit_eq_done hemit
    rw [fUdp_layout] at hlayer
    split at hlayer <;> cases hlayer
    exact written_udpCsum (x := udpPrefix s.regs pay) (by simp [transportUpdates, Regs.commit, Regs.set])
      (udpDatagram_eq s.regs pay) rfl
  · obtain ⟨u, hu, rfl⟩ := exec_eq_next_of_success ht h
    obtain ⟨-, pay, -, hemit⟩ := buildBody_eq_done hu
    obtain ⟨out, res, hlayer, -, rfl⟩ := emit_eq_done hemit
    rw [hsel, buildLayer_layout _ _ (by decide)] at hlayer
    split at hlayer <;> cases hlayer
    refine written_udpCsum (x := frameHeaders s.regs 17 (udpDatagram s.regs pay) ++ udpPrefix s.regs pay)
      (rs := s.regs) (pay := pay) (y := pay) (by simp [transportUpdates, ipv4Results, Regs.commit, Regs.set]) ?_ rfl
    rw [List.append_assoc _ (udpPrefix _ _), List.append_assoc, ← udpDatagram_eq, ← frame_eq]
    rfl

end Sys2Proof.Machine
end

section
/-! The arithmetic of the checksum (40_checksum.md R140 to R144, R150 to R153): `add32` and `fold` keep a number's
one's-complement residue, so a checksum is a function of the unbounded sum of the words alone. -/

namespace Sys2Proof.Machine

open Sys2Proof

/-- The one's-complement representative of a number (R150): 0 for 0, otherwise the number of 1 to `m` that is congruent
to it modulo `m`. -/
def onesResidue (m n : Nat) : Nat := if n = 0 then 0 else (n - 1) % m + 1

section Residue

variable {m n : Nat}

@[simp] theorem onesResidue_zero (m : Nat) : onesResidue m 0 = 0 := rfl

theorem onesResidue_succ (m n : Nat) : onesResidue m (n + 1) = n % m + 1 := by
  simp [onesResidue]

theorem onesResidue_cases (m n : Nat) :
    n = 0 ∧ onesResidue m n = 0 ∨ n ≠ 0 ∧ onesResidue m n = (n - 1) % m + 1 := by
  cases n with
  | zero => exact .inl ⟨rfl, rfl⟩
  | succ n => exact .inr ⟨Nat.succ_ne_zero n, onesResidue_succ m n⟩

theorem onesResidue_of_le (h : n ≤ m) : onesResidue m n = n := by
  cases n with
  | zero => rfl
  | succ n => rw [onesResidue_succ, Nat.mod_eq_of_lt h]

/-- One's-complement addition may reduce a partial sum first. -/
theorem onesResidue_add (m a b : Nat) : onesResidue m (onesResidue m a + b) = onesResidue m (a + b) := by
  cases a with
  | zero => rw [onesResidue_zero]
  | succ a =>
    rw [onesResidue_succ, Nat.add_right_comm _ 1 b, Nat.add_right_comm a 1 b, onesResidue_succ, onesResidue_succ,
      Nat.mod_add_mod]

/-- Reducing by a multiple of `d` first keeps the residue by `d`. -/
theorem onesResidue_onesResidue {d : Nat} (h : d ∣ m) (n : Nat) :
    onesResidue d (onesResidue m n) = onesResidue d n := by
  cases n with
  | zero => rfl
  | succ n => rw [onesResidue_succ, onesResidue_succ, onesResidue_succ, Nat.mod_mod_of_dvd _ h]

end Residue

section Accumulator

/-- The unbounded sum of a list of words. -/
def wordSum (ws : List Half) : Nat := (ws.map BitVec.toNat).sum

@[simp] theorem wordSum_cons (w : Half) (ws : List Half) : wordSum (w :: ws) = w.toNat + wordSum ws := rfl

theorem wordSum_append (ws ws' : List Half) : wordSum (ws ++ ws') = wordSum ws + wordSum ws' := by
  simp [wordSum]

theorem wordSum_perm {ws ws' : List Half} (h : ws.Perm ws') : wordSum ws = wordSum ws' :=
  (h.map _).sum_nat

theorem wordSum_eq_zero_iff (ws : List Half) : wordSum ws = 0 ↔ ∀ w ∈ ws, w = 0 := by
  rw [wordSum, List.sum_eq_zero_iff_forall_eq_nat, List.forall_mem_map]
  exact forall_congr' fun w => imp_congr_right fun _ => BitVec.toNat_inj (y := 0)

/-- The end-around carry of `add32` is addition modulo 2^32 - 1 (R140, R150). -/
theorem add32_eq_onesResidue (acc : Word) (w : Half) :
    (add32 acc w).toNat = onesResidue (2 ^ 32 - 1) (acc.toNat + w.toNat) := by
  have hacc := acc.isLt
  have hw := w.isLt
  rw [add32_toNat]
  split
  next hcarry =>
    rw [onesResidue, if_neg (by omega), Nat.mod_eq_sub_mod (by omega), Nat.mod_eq_of_lt (by omega)]
    omega
  next hsmall => exact (onesResidue_of_le (by omega)).symm

theorem foldl_add32_toNat (ws : List Half) (acc : Word) :
    (ws.foldl add32 acc).toNat = onesResidue (2 ^ 32 - 1) (acc.toNat + wordSum ws) := by
  induction ws generalizing acc with
  | nil => exact (onesResidue_of_le (Nat.le_sub_one_of_lt acc.isLt)).symm
  | cons w ws ih =>
    rw [List.foldl_cons, ih, add32_eq_onesResidue, onesResidue_add, wordSum_cons, Nat.add_assoc]

theorem accBytes_toNat (acc : Word) (b : Bytes) :
    (accBytes acc b).toNat = onesResidue (2 ^ 32 - 1) (acc.toNat + wordSum (wordsOf b)) :=
  foldl_add32_toNat _ _

theorem onesResidue_foldPass (n : Nat) : onesResidue 0xFFFF (foldPass n) = onesResidue 0xFFFF n := by
  unfold foldPass
  split
  next => rfl
  next hhi =>
    rw [onesResidue, onesResidue, if_neg (by omega), if_neg (by omega)]
    omega

/-- The fold of the accumulator is its residue modulo 0xFFFF (R143, R150). -/
theorem fold_eq_onesResidue (acc : Word) : (fold acc).toNat = onesResidue 0xFFFF acc.toNat := by
  have hle : (fold acc).toNat ≤ 0xFFFF := Nat.le_sub_one_of_lt (fold acc).isLt
  rw [← onesResidue_of_le hle, fold_toNat, onesResidue_foldPass, onesResidue_foldPass]

theorem fold_accBytes_toNat (acc : Word) (b : Bytes) :
    (fold (accBytes acc b)).toNat = onesResidue 0xFFFF (acc.toNat + wordSum (wordsOf b)) := by
  rw [fold_eq_onesResidue, accBytes_toNat, onesResidue_onesResidue (by decide)]

end Accumulator

section Words

/-- The words of a string of even length are not padded (R141). -/
theorem wordsOf_append {x : Bytes} (y : Bytes) (h : x.length % 2 = 0) : wordsOf (x ++ y) = wordsOf x ++ wordsOf y := by
  induction x using wordsOf.induct with
  | case1 => rfl
  | case2 hi => cases h
  | case3 hi lo x ih =>
    rw [List.length_cons, List.length_cons] at h
    exact congrArg (half hi lo :: ·) (ih (by omega))

@[simp] theorem wordsOf_be16_append (v : Half) (y : Bytes) : wordsOf (be16 v ++ y) = v :: wordsOf y :=
  congrArg (· :: wordsOf y) (half_be16 v)

theorem accBytes_append (acc : Word) {x : Bytes} (y : Bytes) (h : x.length % 2 = 0) :
    accBytes acc (x ++ y) = accBytes (accBytes acc x) y := by
  rw [accBytes, wordsOf_append y h, List.foldl_append, accBytes, accBytes]

/-- A 16-bit word between the parts of a string adds its value to the sum of the parts. -/
theorem wordSum_be16_between {x : Bytes} (v : Half) (y : Bytes) (h : x.length % 2 = 0) :
    wordSum (wordsOf (x ++ be16 v ++ y)) = wordSum (wordsOf x) + wordSum (wordsOf y) + v.toNat := by
  rw [List.append_assoc, wordsOf_append _ h, wordsOf_be16_append, wordSum_append, wordSum_cons]
  omega

end Words

section InternetChecksum

/-- The Internet checksum by value (R144, R150). -/
theorem inetCsum_toNat (b : Bytes) : (inetCsum b).toNat = 0xFFFF - onesResidue 0xFFFF (wordSum (wordsOf b)) := by
  rw [inetCsum, BitVec.toNat_not, fold_accBytes_toNat]
  exact congrArg (0xFFFF - onesResidue 0xFFFF ·) (Nat.zero_add _)

theorem inetCsum_eq_ones_iff (b : Bytes) : inetCsum b = 0xFFFF ↔ wordSum (wordsOf b) = 0 := by
  have hres := onesResidue_cases 0xFFFF (wordSum (wordsOf b))
  rw [← BitVec.toNat_inj, inetCsum_toNat]
  change _ = 0xFFFF ↔ _
  omega

theorem inetCsum_eq_zero_iff (b : Bytes) :
    inetCsum b = 0 ↔ wordSum (wordsOf b) ≠ 0 ∧ wordSum (wordsOf b) % 0xFFFF = 0 := by
  have hres := onesResidue_cases 0xFFFF (wordSum (wordsOf b))
  rw [← BitVec.toNat_inj, inetCsum_toNat]
  change _ = 0 ↔ _
  omega

end InternetChecksum

/-- Settles O16: the accumulator and its fold are residues of one unbounded sum, which the order of the words does not
change. -/
theorem accumulatorIsOnesComplementSum : Obligations.AccumulatorIsOnesComplementSum := by
  intro acc b total
  refine ⟨accBytes_toNat acc b, fold_accBytes_toNat acc b, fun b' hperm => ?_, fun x y hb hx => ?_⟩
  · apply BitVec.eq_of_toNat_eq
    rw [accBytes_toNat, accBytes_toNat, wordSum_perm hperm]
  · rw [hb, accBytes_append acc y hx]

/-- Settles O17: a checksum is the complement of the residue of the sum of its words. -/
theorem checksumExtremes : Obligations.ChecksumExtremes :=
  fun b => ⟨(inetCsum_eq_ones_iff b).trans (wordSum_eq_zero_iff _), inetCsum_eq_zero_iff b⟩

/-- Settles O18: the checksum completes the sum of the other words to a non-zero multiple of 0xFFFF. -/
theorem checksumInPlaceVerifies : Obligations.ChecksumInPlaceVerifies := by
  intro x y f hx hf
  have hfill : f.toNat = 0xFFFF - onesResidue 0xFFFF (wordSum (wordsOf x) + wordSum (wordsOf y)) ∨
      f.toNat = 0xFFFF ∧ (wordSum (wordsOf x) + wordSum (wordsOf y)) % 0xFFFF = 0 := by
    rw [inetCsum_eq_zero_iff, wordSum_be16_between 0 y hx] at hf
    obtain rfl | ⟨⟨-, hmod⟩, rfl⟩ := hf
    · exact .inl (by rw [inetCsum_toNat, wordSum_be16_between 0 y hx]; rfl)
    · exact .inr ⟨rfl, hmod⟩
  rw [inetCsum_eq_zero_iff, wordSum_be16_between f y hx]
  have hres := onesResidue_cases 0xFFFF (wordSum (wordsOf x) + wordSum (wordsOf y))
  omega

/-- Settles O19: strings chain because their words do; the odd string of the rule is computed. -/
theorem evenChunksChain : Obligations.EvenChunksChain :=
  ⟨fun a _ y hx => (accBytes_append a y hx).symm, by decide, by decide⟩

end Sys2Proof.Machine
end

section
/-! The checksum commands (40_checksum.md R146 to R149): each writes one register when it succeeds, and an illegal word
with its OP raises ILLEGAL_COMMAND (30_encoding.md R97). -/

namespace Sys2Proof.Machine

open Sys2Proof

theorem illegalForms (op : Byte) (s : State) : IllegalForms op s :=
  fun _ _ hillegal => runCommand_of_illegal hillegal s

/-- A command whose body ends with its registers written succeeds with them (60_exceptions.md R266). -/
theorem completes_of_commit {i : Instr} {s : State} {upd : Updates} (h : commandBody s i = .done (s.commit upd)) :
    Completes i s (s.regs.commit upd) := by
  rw [Completes, exec_eq_finish, h]
  rfl

/-- The accumulator holds its whole 32-bit value. -/
theorem Regs.commit_csumAcc (rs : Regs) (v : Word) : rs.commit [(.csumAcc, v)] = { rs with csumAcc := v } := by
  simp [Regs.commit, Regs.set]

theorem Regs.commit_csumRes (rs : Regs) (v : Half) :
    rs.commit [(.csumRes, v.setWidth 32)] = { rs with csumRes := v } := by
  simp [Regs.commit, Regs.set]

/-- Settles O20: the body writes 0 to CSUM_ACC alone. -/
theorem csumClearMeaning : Obligations.CsumClearMeaning :=
  fun s => ⟨Regs.commit_csumAcc s.regs 0 ▸ completes_of_commit (i := .csumClear) rfl, illegalForms _ s⟩

section Add

variable {s : State} {buf : Buf}

theorem csumAdd_badRegion (h : s.params.bufBytes < s.regs.csOff.toNat + s.regs.csLen.toNat) :
    Fails (.csumAdd buf) s .badRegion := by
  have hout := mt (inBounds_iff s _ _).1 (Nat.not_le.2 h)
  rw [Fails, exec_eq_finish, commandBody, csumAddBody, if_neg hout]
  rfl

variable (hin : s.regs.csOff.toNat + s.regs.csLen.toNat ≤ s.params.bufBytes)
include hin

theorem csumAdd_of_lacks (h : s.Lacks buf s.regs.csOff.toNat s.regs.csLen.toNat) :
    FaultsInRegion (exec (.csumAdd buf) s) s buf s.regs.csOff.toNat s.regs.csLen.toNat := by
  obtain ⟨k, hread, hlo, hhi, hnone⟩ := memRead_of_lacks h
  refine ⟨k, hlo, hhi, hnone, ?_⟩
  rw [exec_eq_finish, commandBody, csumAddBody, if_pos ((inBounds_iff s _ _).2 hin), hread]
  rfl

theorem csumAdd_of_holds {b : Bytes} (hlen : b.length = s.regs.csLen.toNat) (h : s.Holds buf s.regs.csOff.toNat b) :
    Completes (.csumAdd buf) s { s.regs with csumAcc := accBytes s.regs.csumAcc b } := by
  rw [← Regs.commit_csumAcc]
  apply completes_of_commit
  rw [commandBody, csumAddBody, if_pos ((inBounds_iff s _ _).2 hin), memRead_of_holds hlen h]

end Add

/-- Settles O21: the bounds are checked first, then the region is read. -/
theorem csumAddMeaning : Obligations.CsumAddMeaning :=
  fun s _ => ⟨csumAdd_badRegion, fun hin => ⟨csumAdd_of_lacks hin, fun _ => csumAdd_of_holds hin⟩, illegalForms _ s⟩

section Pseudo

theorem half_zero (lo : Byte) : half 0 lo = lo.setWidth 16 :=
  (BitVec.setWidth_eq_append (x := lo) (by decide)).symm

/-- The words of a 32-bit number are its upper and its lower half (R145). -/
theorem wordsOf_be32_append (v : Word) (y : Bytes) :
    wordsOf (be32 v ++ y) = v.extractLsb' 16 16 :: v.extractLsb' 0 16 :: wordsOf y := by
  have hhi : half (v.extractLsb' 24 8) (v.extractLsb' 16 8) = v.extractLsb' 16 16 :=
    BitVec.extractLsb'_append_extractLsb'_eq_extractLsb' rfl
  have hlo : half (v.extractLsb' 8 8) (v.extractLsb' 0 8) = v.extractLsb' 0 16 :=
    BitVec.extractLsb'_append_extractLsb'_eq_extractLsb' rfl
  rw [← hhi, ← hlo]
  rfl

/-- The six words of the pseudo-header (R148; 30_encoding.md R118). -/
theorem wordsOf_pseudo (src dst : Word) (proto : Byte) (len : Half) :
    wordsOf (pseudo (be32 src) (be32 dst) proto len) =
      [src.extractLsb' 16 16, src.extractLsb' 0 16, dst.extractLsb' 16 16, dst.extractLsb' 0 16,
        proto.setWidth 16, len] := by
  rw [pseudo, List.append_assoc, List.append_assoc, wordsOf_be32_append, wordsOf_be32_append, ← half_zero proto]
  exact congrArg (_ :: _ :: _ :: _ :: half 0 proto :: ·) (wordsOf_be16_append len [])

end Pseudo

/-- Settles O22: the body adds the words of the pseudo-header. -/
theorem csumPseudoMeaning : Obligations.CsumPseudoMeaning := by
  intro s proto
  refine ⟨?_, illegalForms _ s⟩
  rw [← wordsOf_pseudo, ← Regs.commit_csumAcc]
  exact completes_of_commit rfl

/-- What CSUM_FINAL delivers (R149). -/
def finalCsum (zf : Bool) (acc : Word) : Half := if zf then zeroRule (~~~ fold acc) else ~~~ fold acc

/-- The complement of the folded accumulator by value (R143, R150). -/
theorem not_fold_toNat (acc : Word) : (~~~ fold acc).toNat = if acc = 0 then 0xFFFF
    else if acc.toNat % 0xFFFF = 0 then 0 else 0xFFFF - acc.toNat % 0xFFFF := by
  have hzero : acc = 0 ↔ acc.toNat = 0 := BitVec.toNat_inj.symm
  have hres := onesResidue_cases 0xFFFF acc.toNat
  simp only [BitVec.toNat_not, fold_eq_onesResidue, hzero]
  split
  · omega
  · split <;> omega

theorem zeroRule_toNat (c : Half) : (zeroRule c).toNat = if c.toNat = 0 then 0xFFFF else c.toNat := by
  have hzero : c = 0 ↔ c.toNat = 0 := BitVec.toNat_inj.symm
  simp only [zeroRule, apply_ite BitVec.toNat, hzero, BitVec.reduceToNat]

theorem finalCsum_toNat (zf : Bool) (acc : Word) : (finalCsum zf acc).toNat = if acc = 0 then 0xFFFF
    else if acc.toNat % 0xFFFF = 0 then (if zf then 0xFFFF else 0) else 0xFFFF - acc.toNat % 0xFFFF := by
  cases zf with
  | false => exact not_fold_toNat acc
  | true =>
    rw [show finalCsum true acc = zeroRule (~~~ fold acc) from rfl, zeroRule_toNat, not_fold_toNat]
    by_cases h0 : acc = 0
    · rw [if_pos h0, if_pos h0]
      rfl
    · by_cases hmod : acc.toNat % 0xFFFF = 0
      · rw [if_neg h0, if_pos hmod, if_neg h0, if_pos hmod]
        rfl
      · rw [if_neg h0, if_neg hmod, if_neg h0, if_neg hmod, if_neg (by omega)]

/-- Settles O23: the body writes the complement of the folded accumulator, under the zero rule when ZF is set. -/
theorem csumFinalMeaning : Obligations.CsumFinalMeaning := by
  intro s zf
  refine ⟨⟨finalCsum zf s.regs.csumAcc, ?_, finalCsum_toNat zf _⟩, illegalForms _ s⟩
  rw [← Regs.commit_csumRes]
  exact completes_of_commit rfl

end Sys2Proof.Machine
end

section
/-! The encode commands by the table of their header lengths (41_encode.md R170 to R183): what each command's layer
gives, and the errors in the order of their checks (60_exceptions.md R271). -/

namespace Sys2Proof.Machine

open Sys2Proof Sys2Proof.Claims

section Rows

/-- The bytes an encode command writes around a payload (R171 to R183); no other command encodes. -/
def encodedBytes (rs : Regs) (pay : Bytes) : Instr → Bytes
  | .encEth => ethHeader rs rs.ethType ++ pay
  | .encIpv4 => ipv4Packet rs rs.ipProto pay
  | .encTcp => tcpSegment rs pay
  | .encUdp => udpDatagram rs pay
  | .encIcmp => icmpMessage rs pay
  | _ => []

/-- The result registers an encode command writes besides OUT_LEN. -/
def encodedResults (rs : Regs) (pay : Bytes) : Instr → Updates
  | .encIpv4 => ipv4Results rs rs.ipProto pay
  | .encTcp => transportUpdates rs pay .tcp
  | .encUdp => transportUpdates rs pay .udp
  | .encIcmp => transportUpdates rs pay .icmp
  | _ => []

variable {row : Instr × Nat × Bool}

theorem encodedBytes_length (hrow : row ∈ encoders) (rs : Regs) (pay : Bytes) :
    (encodedBytes rs pay row.1).length = row.2.1 + pay.length := by
  revert row
  simp [encoders, encodedBytes]

/-- The body of an encode command checks what its row says: IP_PROTO for ENC_IPV4 alone, and a 16-bit length where
one bounds the output. -/
theorem commandBody_of_encoder (hrow : row ∈ encoders) (s : State) : ∃ protoOk layer,
    commandBody s row.1 = encodeBody s protoOk layer ∧ (protoOk = true ↔ protoAccepted row.1 s) ∧
      ∀ pay, layer pay = if row.2.2 = true ∧ 0xFFFF < row.2.1 + pay.length then .error .lengthOverflow
        else .ok (encodedBytes s.regs pay row.1, encodedResults s.regs pay row.1) := by
  simp only [encoders, List.mem_cons, List.not_mem_nil, or_false] at hrow
  obtain rfl | rfl | rfl | rfl | rfl := hrow
  · exact ⟨_, _, rfl, by simp [protoAccepted], fun pay => by simp [fEth, ethFrame_eq, encodedBytes, encodedResults]⟩
  · exact ⟨_, _, rfl, by simp [protoAccepted, knownProto, or_assoc], fun pay => by
      simpa [encodedBytes, encodedResults] using fIpv4_layout s.regs s.regs.ipProto pay⟩
  · exact ⟨_, _, rfl, by simp [protoAccepted], fun pay => by
      simpa [encodedBytes, encodedResults] using fTcp_layout s.regs pay⟩
  · exact ⟨_, _, rfl, by simp [protoAccepted], fun pay => by
      simpa [encodedBytes, encodedResults] using fUdp_layout s.regs pay⟩
  · exact ⟨_, _, rfl, by simp [protoAccepted], fun pay => by
      simpa [encodedBytes, encodedResults] using fIcmp_layout s.regs pay⟩

end Rows

theorem fails_of_raised {i : Instr} {s : State} {e : Err} (h : commandBody s i = .raised e) : Fails i s e := by
  rw [Fails, exec_eq_finish, h]
  rfl

/-- Settles O29: the row gives the command's layer, and the body meets its checks in the order of R271. -/
theorem encodeErrorsInOrder : Obligations.EncodeErrorsInOrder := by
  intro row hrow s
  obtain ⟨protoOk, layer, hbody, hproto, hlayer⟩ := commandBody_of_encoder hrow s
  refine ⟨fun hout => ?_, fun hin => ?_⟩
  · have hb := Bool.eq_false_iff.2 (mt (payloadInBounds_iff s).1 (Nat.not_le.2 hout))
    exact fails_of_raised (hbody.trans (encodeBody_of_badRegion hb))
  have hb := (payloadInBounds_iff s).2 hin
  refine ⟨fun hunknown => ?_, fun haccepted => ⟨fun hlacks => ?_, fun pay hpay => ?_⟩⟩
  · have hp := Bool.eq_false_iff.2 (mt hproto.1 hunknown)
    exact fails_of_raised (hbody.trans (encodeBody_of_unknown hb hp))
  · obtain ⟨k, hread, hlo, hhi, hnone⟩ := memRead_of_lacks hlacks
    refine ⟨k, hlo, hhi, hnone, ?_⟩
    rw [exec_eq_finish, hbody, encodeBody_of_fault hb (hproto.2 haccepted) hread, finish_faulted]
  · have hemit := hbody.trans (encodeBody_of_read hb (hproto.2 haccepted) (readPayload_of_payloadIs hpay))
    rw [hlayer] at hemit
    refine ⟨fun hbounded hlong => ?_, fun hshort hlong => ?_⟩
    · rw [if_pos ⟨hbounded, hlong⟩] at hemit
      exact fails_of_raised hemit
    · rw [if_neg fun ⟨hbounded, h⟩ => Nat.not_le.2 h (hshort hbounded)] at hemit
      rw [← encodedBytes_length hrow s.regs] at hlong
      exact fails_of_raised (hemit.trans (emit_ok_of_lt s _ hlong))

end Sys2Proof.Machine
end

section
/-! A success of an encode command (41_encode.md R170): what it leaves, and that its checksums verify (R184). -/

namespace Sys2Proof.Machine

open Sys2Proof Sys2Proof.Claims

section Success

variable {s t : State} {i : Instr}

theorem holds_unique {buf : Buf} {off : Nat} {b b' : Bytes} (h : s.Holds buf off b) (h' : s.Holds buf off b')
    (hlen : b.length = b'.length) : b = b' :=
  List.ext_getElem hlen fun k hk hk' => Option.some.inj ((h k hk).symm.trans (h' k hk'))

/-- `t` is what the success of the encode command `i` around the payload `pay` of `s` leaves. -/
structure EncodeLeaves (i : Instr) (s t : State) (pay : Bytes) : Prop where
  payload : s.PayloadIs pay
  params : t.params = s.params
  regs : t.regs = s.regs.commit (encodedResults s.regs pay i ++
    [(.outLen, BitVec.ofNat 32 (encodedBytes s.regs pay i).length)])
  holds : t.Holds .dst 0 (encodedBytes s.regs pay i)
  length : (encodedBytes s.regs pay i).length = t.regs.outLen.toNat

theorem encodeLeaves_of_success (hi : i ∈ encoders.map Prod.fst) (hok : s.params.Ok) (ht : t.errcode = none)
    (h : exec i s = .next t) : ∃ pay, EncodeLeaves i s t pay := by
  obtain ⟨row, hrow, rfl⟩ := List.mem_map.1 hi
  obtain ⟨protoOk, layer, hbody, -, hlayer⟩ := commandBody_of_encoder hrow s
  obtain ⟨u, hu, rfl⟩ := exec_eq_next_of_success ht h
  obtain ⟨-, pay, hpay, hemit⟩ := encodeBody_eq_done (hbody.symm.trans hu)
  obtain ⟨out, res, hout, hle, rfl⟩ := emit_eq_done hemit
  rw [hlayer] at hout
  split at hout <;> cases hout
  have hlt : (encodedBytes s.regs pay row.1).length < 2 ^ 32 := by
    obtain ⟨-, -, hmax, -⟩ := hok
    omega
  refine ⟨pay, hpay, rfl, rfl, ?_, ?_⟩
  · exact holds_of_written (m := s.dst) (x := []) (y := []) (by simp)
  · rw [State.succeed_regs, memWrite_dst_regs, State.commit_regs, Regs.commit_outLen_of_last, BitVec.toNat_ofNat,
      Nat.mod_eq_of_lt hlt]

end Success

section Checksums

variable (rs : Regs) (pay : Bytes)

@[simp] theorem ipv4Header_length (proto : Byte) (totlen csum : Half) :
    (ipv4Header rs proto totlen csum).length = 20 := rfl
@[simp] theorem tcpHeaderBytes_length (csum : Half) : (tcpHeaderBytes rs csum).length = 20 := rfl
@[simp] theorem udpHeaderBytes_length (len csum : Half) : (udpHeaderBytes rs len csum).length = 8 := rfl
@[simp] theorem icmpHeaderBytes_length (csum : Half) : (icmpHeaderBytes rs csum).length = 8 := rfl
@[simp] theorem pseudoHeader_length (proto : Byte) (len : Half) : (pseudoHeader rs proto len).length = 12 := rfl

theorem ipv4Header_verifies (proto : Byte) (totlen : Half) :
    inetCsum (ipv4Header rs proto totlen (ipv4Csum rs proto totlen)) = 0 :=
  checksumInPlaceVerifies ((ipv4Header rs proto totlen 0).take 10) (be32 rs.ipSrc ++ be32 rs.ipDst) _ (by simp)
    (.inl rfl)

theorem tcpSegment_verifies :
    inetCsum (pseudoHeader rs 6 (BitVec.ofNat 16 (20 + pay.length)) ++ tcpSegment rs pay) = 0 :=
  checksumInPlaceVerifies
    (pseudoHeader rs 6 (BitVec.ofNat 16 (20 + pay.length)) ++ (tcpHeaderBytes rs 0).take 16)
    (be16 rs.tcpUrg ++ pay) _ (by simp) (.inl rfl)

/-- The zero rule delivers 0xFFFF where the checksum is 0, which verifies as well (R180, R152). -/
theorem udpDatagram_verifies :
    inetCsum (pseudoHeader rs 17 (BitVec.ofNat 16 (8 + pay.length)) ++ udpDatagram rs pay) = 0 := by
  have hcsum : udpDatagramCsum rs pay = udpRawCsum rs pay ∨
      udpRawCsum rs pay = 0 ∧ udpDatagramCsum rs pay = 0xFFFF := by
    unfold udpDatagramCsum
    split
    next hzero => exact .inr ⟨hzero, rfl⟩
    next => exact .inl rfl
  exact checksumInPlaceVerifies (pseudoHeader rs 17 (BitVec.ofNat 16 (8 + pay.length)) 
    ++ (udpHeaderBytes rs (BitVec.ofNat 16 (8 + pay.length)) 0).take 6) pay _ (by simp) hcsum

theorem icmpMessage_verifies : inetCsum (icmpMessage rs pay) = 0 :=
  checksumInPlaceVerifies [rs.icmpType, rs.icmpCode] (be16 rs.icmpId ++ be16 rs.icmpSeq ++ pay) _ (by simp) (.inl rfl)

end Checksums

/-- Settles O30: the OUT_LEN bytes in DST_BUF are the ones the command encoded, with their checksum in place. -/
theorem encodedChecksumsVerify : Obligations.EncodedChecksumsVerify := by
  intro s t out hok hholds hlen ht
  have hout {i : Instr} (hi : i ∈ encoders.map Prod.fst) (h : exec i s = .next t) :
      ∃ pay, out = encodedBytes s.regs pay i := by
    obtain ⟨pay, hleaves⟩ := encodeLeaves_of_success hi hok ht h
    exact ⟨pay, holds_unique hholds hleaves.holds (hlen.trans hleaves.length.symm)⟩
  refine ⟨fun h => ?_, fun h => ?_, fun h => ?_, fun h => ?_⟩ <;> obtain ⟨pay, rfl⟩ := hout (by decide) h
  · exact ipv4Header_verifies s.regs s.regs.ipProto _
  · rw [encodedBytes, tcpSegment_length]
    exact tcpSegment_verifies s.regs pay
  · rw [encodedBytes, udpDatagram_length]
    exact udpDatagram_verifies s.regs pay
  · exact icmpMessage_verifies s.regs pay

end Sys2Proof.Machine
end

section
/-! Decoding what an encode command wrote (41_encode.md R185): the copy is a readable input, the decoder reads back the
fields the header was made of, and the payload stands behind the header. -/

namespace Sys2Proof.Machine

open Sys2Proof Sys2Proof.Claims

section Reads

variable (rs : Regs) {pay b : Bytes}

theorem ethHeader_reads {etype : Half} (hb : b = ethHeader rs etype ++ pay) :
    rd16 b 0 = rs.ethDstHi ∧ rd32 b 2 = rs.ethDstLo ∧ rd16 b 6 = rs.ethSrcHi ∧ rd32 b 8 = rs.ethSrcLo ∧
      rd16 b 12 = etype := by
  subst hb
  exact ⟨half_be16 _, half_be32 _, half_be16 _, half_be32 _, half_be16 _⟩

/-- IHL is 5, and flags and fragment offset stand apart in bytes 6..7 (R111, R113). -/
theorem ipv4Header_reads {proto : Byte} {totlen csum : Half} (hb : b = ipv4Header rs proto totlen csum ++ pay) :
    rd8 b 0 = 0x45 ∧ rd8 b 1 = rs.ipTos ∧ rd16 b 2 = totlen ∧ rd16 b 4 = rs.ipId ∧
      (rd16 b 6).extractLsb' 13 3 = rs.ipFlags ∧ (rd16 b 6).extractLsb' 0 13 = rs.ipFrag ∧
      rd8 b 8 = rs.ipTtl ∧ rd8 b 9 = proto ∧ rd16 b 10 = csum ∧ rd32 b 12 = rs.ipSrc ∧ rd32 b 16 = rs.ipDst := by
  have hfrag : rd16 b 6 = rs.ipFlags ++ rs.ipFrag := hb ▸ half_be16 _
  rw [hfrag]
  subst hb
  exact ⟨rfl, rfl, half_be16 _, half_be16 _, BitVec.extractLsb'_append_eq_left, BitVec.extractLsb'_append_eq_right,
    rfl, rfl, half_be16 _, half_be32 _, half_be32 _⟩

/-- The data offset is 5 with three zeros behind it, and the flags stand apart in bytes 12..13 (R115). -/
theorem tcpHeader_reads {csum : Half} (hb : b = tcpHeaderBytes rs csum ++ pay) :
    rd16 b 0 = rs.tcpSport ∧ rd16 b 2 = rs.tcpDport ∧ rd32 b 4 = rs.tcpSeq ∧ rd32 b 8 = rs.tcpAck ∧
      (rd16 b 12).extractLsb' 12 4 = 5 ∧ (rd16 b 12).extractLsb' 9 7 = 0x28 ∧
      (rd16 b 12).extractLsb' 0 9 = rs.tcpFlags ∧ rd16 b 14 = rs.tcpWin ∧ rd16 b 16 = csum ∧
      rd16 b 18 = rs.tcpUrg := by
  have hoffset : rd16 b 12 = (5 : BitVec 4) ++ (0 : BitVec 3) ++ rs.tcpFlags := hb ▸ half_be16 _
  rw [hoffset]
  subst hb
  exact ⟨half_be16 _, half_be16 _, half_be32 _, half_be32 _, BitVec.extractLsb'_append_eq_of_le (by decide),
    BitVec.extractLsb'_append_eq_left, BitVec.extractLsb'_append_eq_right, half_be16 _, half_be16 _, half_be16 _⟩

theorem udpHeader_reads {len csum : Half} (hb : b = udpHeaderBytes rs len csum ++ pay) :
    rd16 b 0 = rs.udpSport ∧ rd16 b 2 = rs.udpDport ∧ rd16 b 4 = len ∧ rd16 b 6 = csum := by
  subst hb
  exact ⟨half_be16 _, half_be16 _, half_be16 _, half_be16 _⟩

theorem icmpHeader_reads {csum : Half} (hb : b = icmpHeaderBytes rs csum ++ pay) :
    rd8 b 0 = rs.icmpType ∧ rd8 b 1 = rs.icmpCode ∧ rd16 b 2 = csum ∧ rd16 b 4 = rs.icmpId ∧
      rd16 b 6 = rs.icmpSeq := by
  subst hb
  exact ⟨rfl, rfl, half_be16 _, half_be16 _, half_be16 _⟩

end Reads

section Copy

variable {s t u : State} {i : Instr} {pay header : Bytes}

theorem holds_append_right {buf : Buf} {off : Nat} {x y : Bytes} (h : s.Holds buf off (x ++ y)) :
    s.Holds buf (off + x.length) y := by
  intro k hk
  have hread := h (x.length + k) (by simpa using hk)
  simpa [Nat.add_assoc] using hread

/-- The copied output is an input region with the bytes the command encoded (R185). -/
theorem inputIs_of_copiedBack (henc : EncodeLeaves i s t pay) (hcopy : CopiedBack t u) :
    u.InputIs (encodedBytes s.regs pay i) := by
  obtain ⟨-, hinLen, hbound, hbytes⟩ := hcopy
  refine ⟨hbound, by rw [hinLen, henc.length], fun k hk => ?_⟩
  have hread := henc.holds k hk
  rw [Nat.zero_add] at hread
  exact (hbytes k (henc.length ▸ hk)).trans hread

/-- A decode that leaves the region behind the header as payload finds the payload there. -/
theorem samePayload_of_inputIs {rs : Regs} (hpay : s.PayloadIs pay) (hin : u.InputIs (header ++ pay))
    (hmax : u.params.bufBytes ≤ 131072) (hoff : rs.payOff = u.regs.inOff + BitVec.ofNat 32 header.length)
    (hlen : rs.payLen = u.regs.inLen - BitVec.ofNat 32 header.length) :
    SamePayload s { u with errcode := none, regs := rs } := by
  obtain ⟨-, hpayLen, hpayBytes⟩ := hpay
  obtain ⟨hbound, hinLen, hinBytes⟩ := hin
  rw [List.length_append] at hinLen
  have hoffNat : rs.payOff.toNat = u.regs.inOff.toNat + header.length := by
    rw [hoff, BitVec.toNat_add, BitVec.toNat_ofNat]
    omega
  have hlenNat : rs.payLen.toNat = s.regs.payLen.toNat := by
    rw [hlen, BitVec.toNat_sub, BitVec.toNat_ofNat]
    omega
  refine ⟨BitVec.eq_of_toNat_eq hlenNat, fun k hk => ?_⟩
  rw [← hpayLen] at hk
  have hread := holds_append_right hinBytes k hk
  rw [← hoffNat] at hread
  exact hread.trans (hpayBytes k hk).symm

end Copy

/-- The decode command `j` in `u` succeeds, with the payload and these fields of `s` and these results of `t`. -/
def DecodesBack (j : Instr) (fields results : List Reg) (s t u : State) : Prop :=
  ∃ v, exec j u = .next v ∧ v.errcode = none ∧ SamePayload s v ∧ (∀ r ∈ fields, v.csr r = s.csr r) ∧
    ∀ r ∈ results, v.csr r = t.csr r

section RoundTrip

variable {s t u : State} {i j : Instr} {pay : Bytes} (hok : s.params.Ok) (hcopy : CopiedBack t u)
include hok hcopy

/-- A decode whose registers are those of the encode, with the payload region behind the header, undoes the encode. -/
theorem decodesBack_of_completes {rs : Regs} {header : Bytes} {fields results : List Reg}
    (henc : EncodeLeaves i s t pay) (hbytes : encodedBytes s.regs pay i = header ++ pay) (hdec : Completes j u rs)
    (hoff : rs.payOff = u.regs.inOff + BitVec.ofNat 32 header.length)
    (hlen : rs.payLen = u.regs.inLen - BitVec.ofNat 32 header.length) (hfields : ∀ r ∈ fields, rs.get r = s.csr r)
    (hresults : ∀ r ∈ results, rs.get r = t.csr r) : DecodesBack j fields results s t u := by
  have hin := inputIs_of_copiedBack henc hcopy
  obtain ⟨hparams, -⟩ := hcopy
  obtain ⟨-, -, hmax, -⟩ := hok
  rw [← henc.params, ← hparams] at hmax
  exact ⟨_, hdec, rfl, samePayload_of_inputIs henc.payload (hbytes ▸ hin) hmax hoff hlen, hfields, hresults⟩

theorem decEth_decodesBack (henc : EncodeLeaves .encEth s t pay) :
    DecodesBack .decEth [.ethDstHi, .ethDstLo, .ethSrcHi, .ethSrcLo, .ethType] [] s t u := by
  have hdec := decEthMeaning u _ (inputIs_of_copiedBack henc hcopy) (by simp [encodedBytes])
  have hreads := ethHeader_reads s.regs (b := encodedBytes s.regs pay .encEth) rfl
  refine decodesBack_of_completes hok hcopy henc rfl hdec rfl rfl ?_ (by simp)
  simp [State.csr, Regs.get, hreads]

theorem decIpv4_decodesBack (henc : EncodeLeaves .encIpv4 s t pay) :
    DecodesBack .decIpv4 [.ipTos, .ipId, .ipFlags, .ipFrag, .ipTtl, .ipProto, .ipSrc, .ipDst]
      [.ipVerIhl, .ipTotlen, .ipCsum] s t u := by
  have hlen : (encodedBytes s.regs pay .encIpv4).length = 20 + pay.length := ipv4Packet_length _ _ _
  have hdec := decIpv4Meaning u _ (inputIs_of_copiedBack henc hcopy) (by omega)
  have hreads := ipv4Header_reads s.regs (b := encodedBytes s.regs pay .encIpv4) rfl
  have hk : min (4 * ((rd8 (encodedBytes s.regs pay .encIpv4) 0).extractLsb' 0 4).toNat)
      (encodedBytes s.regs pay .encIpv4).length = 20 := by
    simp [hreads, hlen]
  simp only [hk] at hdec
  refine decodesBack_of_completes hok hcopy henc rfl hdec rfl rfl ?_ ?_
  · simp [State.csr, Regs.get, hreads]
  · simp [State.csr, Regs.get, hreads, henc.regs, encodedResults, ipv4Results, Regs.commit, Regs.set]

theorem decTcp_decodesBack (henc : EncodeLeaves .encTcp s t pay) :
    DecodesBack .decTcp [.tcpSport, .tcpDport, .tcpSeq, .tcpAck, .tcpFlags, .tcpWin, .tcpUrg]
      [.tcpHlen, .tcpCsum] s t u := by
  have hlen : (encodedBytes s.regs pay .encTcp).length = 20 + pay.length := tcpSegment_length _ _
  have hdec := decTcpMeaning u _ (inputIs_of_copiedBack henc hcopy) (by omega)
  have hreads := tcpHeader_reads s.regs (b := encodedBytes s.regs pay .encTcp) rfl
  have hk : min (4 * ((rd16 (encodedBytes s.regs pay .encTcp) 12).extractLsb' 12 4).toNat)
      (encodedBytes s.regs pay .encTcp).length = 20 := by
    simp [-BitVec.extractLsb'_toNat, hreads, hlen]
  simp only [hk] at hdec
  refine decodesBack_of_completes hok hcopy henc rfl hdec rfl rfl ?_ ?_
  · simp [State.csr, Regs.get, hreads]
  · simp [State.csr, Regs.get, hreads, henc.regs, encodedResults, transportUpdates, Regs.commit, Regs.set]

theorem decUdp_decodesBack (henc : EncodeLeaves .encUdp s t pay) :
    DecodesBack .decUdp [.udpSport, .udpDport] [.udpLen, .udpCsum] s t u := by
  have hdec := decUdpMeaning u _ (inputIs_of_copiedBack henc hcopy) (by simp [encodedBytes])
  have hreads := udpHeader_reads s.regs (b := encodedBytes s.regs pay .encUdp) rfl
  refine decodesBack_of_completes hok hcopy henc rfl hdec rfl rfl ?_ ?_
  · simp [State.csr, Regs.get, hreads]
  · simp [State.csr, Regs.get, hreads, henc.regs, encodedResults, transportUpdates, Regs.commit, Regs.set]

theorem decIcmp_decodesBack (henc : EncodeLeaves .encIcmp s t pay) :
    DecodesBack .decIcmp [.icmpType, .icmpCode, .icmpId, .icmpSeq] [.icmpCsum] s t u := by
  have hdec := decIcmpMeaning u _ (inputIs_of_copiedBack henc hcopy) (by simp [encodedBytes])
  have hreads := icmpHeader_reads s.regs (b := encodedBytes s.regs pay .encIcmp) rfl
  refine decodesBack_of_completes hok hcopy henc rfl hdec rfl rfl ?_ ?_
  · simp [State.csr, Regs.get, hreads]
  · simp [State.csr, Regs.get, hreads, henc.regs, encodedResults, transportUpdates, Regs.commit, Regs.set]

end RoundTrip

/-- Settles O32: the success leaves the encoded bytes, and the decoder of the layer undoes the encode on their copy. -/
theorem encodeThenDecodeReproducesFields : Obligations.EncodeThenDecodeReproducesFields := by
  intro s t u hok ht hcopy
  refine ⟨fun h => ?_, fun h => ?_, fun h => ?_, fun h => ?_, fun h => ?_⟩ <;>
    obtain ⟨pay, henc⟩ := encodeLeaves_of_success (by decide) hok ht h
  · obtain ⟨v, hexec, herr, hpay, hfields, -⟩ := decEth_decodesBack hok hcopy henc
    exact ⟨v, hexec, herr, hpay, hfields⟩
  · exact decIpv4_decodesBack hok hcopy henc
  · exact decTcp_decodesBack hok hcopy henc
  · exact decUdp_decodesBack hok hcopy henc
  · exact decIcmp_decodesBack hok hcopy henc

end Sys2Proof.Machine
end

section
/-! The decode commands by the table of their minimum header sizes (42_decode.md R200; 60_exceptions.md R262): the errors
in the order of their checks (R271), and that no field value of a readable input is one (R210). -/

namespace Sys2Proof.Machine

open Sys2Proof Sys2Proof.Claims

section Checks

variable {s : State}

/-- The body of a decode command checks the minimum header size its row says. -/
theorem commandBody_of_decoder {row : Instr × Nat} (hrow : row ∈ decoders) (s : State) :
    ∃ layer, commandBody s row.1 = decodeBody s row.2 layer := by
  simp only [decoders, List.mem_cons, List.not_mem_nil, or_false] at hrow
  obtain rfl | rfl | rfl | rfl | rfl := hrow <;> exact ⟨_, rfl⟩

/-- ERRCODE tells an error from a success and from every other error. -/
theorem raised_of_fails {i : Instr} {e : Err} (h : Fails i s e) : commandBody s i = .raised e := by
  rw [Fails, exec_eq_finish, finish_eq_next_iff] at h
  obtain ⟨u, -, hu⟩ | ⟨x, hx, heq⟩ := h
  · exact absurd (congrArg State.errcode hu) (Option.some_ne_none e)
  · have hex : e = x := Option.some.inj (congrArg State.errcode heq)
    rw [hx, hex]

/-- TRUNCATED_INPUT is raised for a short input alone (R262). -/
theorem inLen_lt_of_truncated {minLen : Nat} {layer : Bytes → Updates × Nat}
    (h : decodeBody s minLen layer = .raised .truncatedInput) : s.regs.inLen.toNat < minLen := by
  obtain ⟨-, he⟩ | ⟨-, hshort, -⟩ | ⟨-, -, f, -, he⟩ | ⟨-, -, b, -, he⟩ := decodeBody_cases s minLen layer
  · cases he.symm.trans h
  · exact hshort
  · cases he.symm.trans h
  · cases he.symm.trans h

end Checks

/-- Settles O38: the row gives the command's minimum, and the body meets its checks in the order of R271. -/
theorem decodeErrorsInOrder : Obligations.DecodeErrorsInOrder := by
  intro row hrow s
  obtain ⟨layer, hbody⟩ := commandBody_of_decoder hrow s
  refine ⟨fun hout => ?_, fun hin => ?_, fun hlen hfails => ?_⟩
  · have hb := Bool.eq_false_iff.2 (mt (inputInBounds_iff s).1 (Nat.not_le.2 hout))
    exact fails_of_raised (hbody.trans (decodeBody_of_badRegion hb))
  · have hb := (inputInBounds_iff s).2 hin
    refine ⟨fun hshort => fails_of_raised (hbody.trans (decodeBody_of_short hb hshort)), fun hlen hlacks => ?_⟩
    obtain ⟨k, hread, hlo, hhi, hnone⟩ := memRead_of_lacks hlacks
    refine ⟨k, hlo, hhi, hnone, ?_⟩
    rw [exec_eq_finish, hbody, decodeBody_of_fault hb hlen hread, finish_faulted]
  · exact Nat.not_lt.2 hlen (inLen_lt_of_truncated (hbody.symm.trans (raised_of_fails hfails)))

/-- Settles O39: the command completes with some registers changed, and the frame names the ones it may write. -/
theorem decodeChecksOnlyTheLength : Obligations.DecodeChecksOnlyTheLength := by
  intro row hrow s b hinput hlen
  obtain ⟨layer, hbody⟩ := commandBody_of_decoder hrow s
  have hexec := completes_of_decodeBody hbody hinput hlen rfl
  exact ⟨_, hexec, rfl, rfl, rfl, rfl, rfl, (exec_frame hexec).csr⟩

end Sys2Proof.Machine
end

section
/-! The select commands (43_builder.md R230 to R232), and what BUILD does with a readable payload, said once for every
transport (R240, R245): the lengths that fit, the state it leaves, and its errors in the order of their checks
(60_exceptions.md R271). -/

namespace Sys2Proof.Machine

open Sys2Proof Sys2Proof.Claims

/-- Settles O40: the body of a select command writes TSEL alone. -/
theorem selectMeaning : Obligations.SelectMeaning :=
  fun s => ⟨exec_eq_finish .selIcmp s, exec_eq_finish .selTcp s, exec_eq_finish .selUdp s,
    illegalForms _ s, illegalForms _ s, illegalForms _ s⟩

section Lengths

variable {rs : Regs} {sel : TSel} {pay : Bytes}

theorem transportBytes_length (hsel : sel ≠ .none) :
    (transportBytes rs sel pay).length = (if sel = .tcp then 20 else 8) + pay.length := by
  cases sel with
  | none => exact absurd rfl hsel
  | icmp => exact icmpMessage_length rs pay
  | tcp => exact tcpSegment_length rs pay
  | udp => exact udpDatagram_length rs pay

/-- The limit of R245 is what the 16-bit total length of the IPv4 header leaves the payload. -/
theorem transportBytes_exceeds_iff (hsel : sel ≠ .none) :
    0xFFFF < 20 + (transportBytes rs sel pay).length ↔ (if sel = .tcp then 65495 else 65507) < pay.length := by
  rw [transportBytes_length hsel]
  split <;> omega

end Lengths

section Errors

variable {s : State}

theorem buildBody_of_unselected (h : s.tsel = .none) : buildBody s = .raised .unselectedProtocol := by
  simp [buildBody, h]

variable (hsel : s.tsel ≠ .none)
include hsel

theorem buildBody_of_badRegion (hb : payloadInBounds s = false) : buildBody s = .raised .badRegion := by
  simp [buildBody, hsel, hb]

theorem buildBody_of_fault {f : Fault} (hb : payloadInBounds s = true) (hr : readPayload s = .error f) :
    buildBody s = .faulted f := by
  simp [buildBody, hsel, hb, hr]

theorem buildBody_of_long {pay : Bytes} (hpay : s.PayloadIs pay)
    (hlong : 0xFFFF < 20 + (transportBytes s.regs s.tsel pay).length) : buildBody s = .raised .lengthOverflow := by
  rw [buildBody_of_read hsel hpay, buildLayer_layout _ _ hsel, if_pos hlong, emit_error]

end Errors

/-- Settles O44: the body meets its checks in the order of R271. -/
theorem buildErrorsInOrder : Obligations.BuildErrorsInOrder := by
  intro s
  refine ⟨fun hnone => fails_of_raised (buildBody_of_unselected hnone), fun hsel => ⟨fun hout => ?_, fun hin => ?_⟩⟩
  · have hb := Bool.eq_false_iff.2 (mt (payloadInBounds_iff s).1 (Nat.not_le.2 hout))
    exact fails_of_raised (buildBody_of_badRegion hsel hb)
  refine ⟨fun hlacks => ?_, fun pay hpay hlong => ?_⟩
  · obtain ⟨k, hread, hlo, hhi, hnone⟩ := memRead_of_lacks hlacks
    refine ⟨k, hlo, hhi, hnone, ?_⟩
    rw [exec_eq_finish, commandBody, buildBody_of_fault hsel ((payloadInBounds_iff s).2 hin) hread, finish_faulted]
  · exact fails_of_raised (buildBody_of_long hsel hpay ((transportBytes_exceeds_iff hsel).2 hlong))

/-- The frame BUILD makes of the payload `pay` in `s` (R240). -/
def State.builtFrame (s : State) (pay : Bytes) : Bytes :=
  frame s.regs s.tsel.code (transportBytes s.regs s.tsel pay)

/-- The registers a successful BUILD writes (R240). -/
def State.builtUpdates (s : State) (pay : Bytes) : Updates :=
  transportUpdates s.regs pay s.tsel ++ ipv4Results s.regs s.tsel.code (transportBytes s.regs s.tsel pay) ++
    [(.outLen, BitVec.ofNat 32 (s.builtFrame pay).length)]

/-- What a successful BUILD of the payload `pay` leaves of `s`. -/
def State.built (s : State) (pay : Bytes) : State :=
  (memWrite (s.commit (s.builtUpdates pay)) .dst 0 (s.builtFrame pay)).succeed

/-- BUILD has a transport, a readable payload and a frame that fits both its length field and DST_BUF. -/
structure Buildable (s : State) (pay : Bytes) : Prop where
  selected : s.tsel ≠ .none
  payload : s.PayloadIs pay
  short : 20 + (transportBytes s.regs s.tsel pay).length ≤ 0xFFFF
  fits : 34 + (transportBytes s.regs s.tsel pay).length ≤ s.params.bufBytes

section Success

variable {s t : State} {pay : Bytes}

theorem Buildable.exec_build (h : Buildable s pay) : exec .build s = .next (s.built pay) := by
  have hfits : (s.builtFrame pay).length ≤ s.params.bufBytes := by
    rw [State.builtFrame, frame_length]
    exact h.fits
  rw [exec_eq_finish, commandBody, buildBody_of_read h.selected h.payload, buildLayer_layout _ _ h.selected,
    if_neg (Nat.not_lt.2 h.short), ← State.builtFrame, emit_ok_of_le s _ hfits]
  rfl

/-- BUILD succeeds in no other way. -/
theorem buildable_of_success (ht : t.errcode = none) (h : exec .build s = .next t) :
    ∃ pay, Buildable s pay ∧ t = s.built pay := by
  obtain ⟨u, hu, rfl⟩ := exec_eq_next_of_success ht h
  obtain ⟨hsel, pay, hpay, hemit⟩ := buildBody_eq_done hu
  obtain ⟨out, res, hlayer, hfits, rfl⟩ := emit_eq_done hemit
  rw [buildLayer_layout _ _ hsel] at hlayer
  split at hlayer <;> cases hlayer
  rw [frame_length] at hfits
  exact ⟨pay, ⟨hsel, hpay, by omega, hfits⟩, rfl⟩

/-- Within the parameters' bounds every frame an IPv4 packet can hold fits DST_BUF (R244). -/
theorem buildable_of_payloadIs (hok : s.params.Ok) (hsel : s.tsel ≠ .none) (hpay : s.PayloadIs pay)
    (hlen : pay.length ≤ if s.tsel = .tcp then 65495 else 65507) : Buildable s pay := by
  obtain ⟨-, hmin, -, -⟩ := hok
  have hshort := mt (transportBytes_exceeds_iff (rs := s.regs) hsel).1 (Nat.not_lt.2 hlen)
  exact ⟨hsel, hpay, by omega, by omega⟩

theorem Buildable.outLen (h : Buildable s pay) :
    (s.built pay).regs.outLen.toNat = 34 + (transportBytes s.regs s.tsel pay).length := by
  have hshort := h.short
  have hout : (s.built pay).regs.outLen = BitVec.ofNat 32 (s.builtFrame pay).length :=
    Regs.commit_outLen_of_last _ _ _
  rw [hout, State.builtFrame, frame_length, BitVec.toNat_ofNat, Nat.mod_eq_of_lt (by omega)]

theorem built_holds (s : State) (pay : Bytes) : (s.built pay).Holds .dst 0 (s.builtFrame pay) :=
  holds_of_written (m := s.dst) (x := []) (y := []) (by rw [List.nil_append, List.append_nil]; rfl)

end Success

/-- Settles O45: above the limit the body raises the error, and up to it BUILD succeeds. -/
theorem buildLengthLimit : Obligations.BuildLengthLimit := by
  intro s pay hok hsel hpay
  obtain ⟨-, hlen, -⟩ := id hpay
  rw [← hlen]
  have hbuildable := buildable_of_payloadIs hok hsel hpay
  refine ⟨⟨fun hfails => ?_, fun hlong => ?_⟩, fun hshort => ?_⟩
  · refine Nat.lt_of_not_le fun hshort => ?_
    have hnext := hfails.symm.trans (hbuildable hshort).exec_build
    cases congrArg State.errcode (Host.Outcome.next.inj hnext)
  · exact fails_of_raised (buildBody_of_long hsel hpay ((transportBytes_exceeds_iff hsel).2 hlong))
  · refine ⟨_, (hbuildable hshort).exec_build, rfl, ?_⟩
    rw [(hbuildable hshort).outLen, transportBytes_length hsel, Nat.add_assoc]

end Sys2Proof.Machine
end

section
/-! The frame BUILD writes (43_builder.md R241), and that BUILD depends on nothing it writes (R243). -/

namespace Sys2Proof.Machine

open Sys2Proof Sys2Proof.Claims

section Layout

variable (rs : Regs) (proto : Byte)

/-- The transport's bytes are a header and the payload (R241). -/
theorem transportBytes_drop {sel : TSel} (hsel : sel ≠ .none) (pay : Bytes) :
    (transportBytes rs sel pay).drop (if sel = .tcp then 20 else 8) = pay := by
  cases sel with
  | none => exact absurd rfl hsel
  | icmp | tcp | udp => rfl

theorem frame_take_ethHeader (transport : Bytes) : (frame rs proto transport).take 14 = ethHeader rs 0x0800 := rfl

theorem frame_take_ipv4Header (transport : Bytes) : ((frame rs proto transport).drop 14).take 20 =
    ipv4Header rs proto (BitVec.ofNat 16 (20 + transport.length))
      (ipv4Csum rs proto (BitVec.ofNat 16 (20 + transport.length))) := rfl

theorem frame_drop_headers (transport : Bytes) : (frame rs proto transport).drop 34 = transport := rfl

theorem frame_totlen (transport : Bytes) :
    rd16 (frame rs proto transport) 16 = BitVec.ofNat 16 (20 + transport.length) := half_be16 _

/-- The IPv4 result registers hold what the header says (R172). -/
theorem built_ipv4Results (s : State) (pay : Bytes) :
    (s.built pay).regs.ipVerIhl = 0x45 ∧
      (s.built pay).regs.ipTotlen = BitVec.ofNat 16 (20 + (transportBytes s.regs s.tsel pay).length) ∧
      (s.built pay).regs.ipCsum = ipv4Csum s.regs s.tsel.code
        (BitVec.ofNat 16 (20 + (transportBytes s.regs s.tsel pay).length)) := by
  simp [State.built, State.builtUpdates, ipv4Results, Regs.commit_append, Regs.commit, Regs.set]

end Layout

/-- Settles O46: the OUT_LEN bytes in DST_BUF are the frame around the payload. -/
theorem builtFrameLayout : Obligations.BuiltFrameLayout := by
  intro s t out pay hok h ht hpay hholds hlen
  obtain ⟨pay', hb, rfl⟩ := buildable_of_success ht h
  obtain rfl : pay = pay' := holds_unique hpay.2.2 hb.payload.2.2 (hpay.2.1.trans hb.payload.2.1.symm)
  have hout : out = s.builtFrame pay := by
    refine holds_unique hholds (built_holds s pay) ?_
    rw [hlen, hb.outLen, State.builtFrame, frame_length]
  obtain ⟨-, htotlen, hcsum⟩ := built_ipv4Results s pay
  rw [htotlen, hcsum, hout, State.builtFrame]
  refine ⟨frame_length _ _ _, frame_take_ethHeader _ _ _, frame_take_ipv4Header _ _ _, rfl, ?_, rfl,
    frame_drop_headers _ _ _, transportBytes_length hb.selected, ?_⟩
  · have hshort := hb.short
    rw [frame_totlen, BitVec.toNat_ofNat, Nat.mod_eq_of_lt (by omega)]
  · rw [← List.drop_drop, frame_drop_headers, transportBytes_drop _ hb.selected]

/-- The registers a BUILD can write, whatever the selection (R240). -/
def buildResults : List Reg :=
  [.ipVerIhl, .ipTotlen, .ipCsum, .outLen, .icmpCsum, .tcpHlen, .tcpCsum, .udpLen, .udpCsum]

section Again

variable {s : State} {pay : Bytes}

/-- A value that no write to the listed registers changes, a commit of such registers does not change. -/
theorem Regs.commit_unread {α : Type} {g : Regs → α} {regs : List Reg} {upd : Updates} (rs : Regs)
    (hg : ∀ r ∈ regs, ∀ rs v, g (rs.set v r) = g rs) (hupd : upd.map Prod.fst ⊆ regs) :
    g (rs.commit upd) = g rs := by
  induction upd generalizing rs with
  | nil => rfl
  | cons e upd ih =>
    obtain ⟨hhead, htail⟩ := List.cons_subset.1 hupd
    exact (ih (rs.set e.2 e.1) htail).trans (hg e.1 hhead rs e.2)

theorem builtUpdates_listed (s : State) (pay : Bytes) : (s.builtUpdates pay).map Prod.fst ⊆ buildResults := by
  unfold State.builtUpdates
  cases s.tsel <;> simp [transportUpdates, ipv4Results, buildResults]

/-- BUILD reads none of the registers a BUILD writes (R243). -/
theorem buildLayer_unread (sel : TSel) (pay : Bytes) :
    ∀ r ∈ buildResults, ∀ rs v, buildLayer (Regs.set rs v r) sel pay = buildLayer rs sel pay := by
  intro r hr rs v
  cases r with
  | ipVerIhl | ipTotlen | ipCsum | outLen | icmpCsum | tcpHlen | tcpCsum | udpLen | udpCsum =>
    cases sel <;> rfl
  | _ => simp [buildResults] at hr

theorem payloadRegs_unread : ∀ r ∈ buildResults, ∀ rs v,
    ((Regs.set rs v r).payOff, (Regs.set rs v r).payLen) = (rs.payOff, rs.payLen) := by
  intro r hr rs v
  cases r with
  | payOff | payLen => simp [buildResults] at hr
  | _ => rfl

/-- The same updates once more change nothing. -/
theorem builtUpdates_twice (rs : Regs) (s : State) (pay : Bytes) :
    (rs.commit (s.builtUpdates pay)).commit (s.builtUpdates pay) = rs.commit (s.builtUpdates pay) := by
  unfold State.builtUpdates
  cases s.tsel <;>
    simp only [transportUpdates, ipv4Results, List.cons_append, List.nil_append, Regs.commit, Regs.set]

theorem Memory.byteAt_writeBytes_twice (m : Memory) (a : Nat) (bs : Bytes) (k : Nat) :
    ((m.writeBytes a bs).writeBytes a bs).byteAt k = (m.writeBytes a bs).byteAt k := by
  simp only [Memory.byteAt_writeBytes]
  split <;> rfl

/-- A second BUILD makes the first one's frame and updates again. -/
theorem Buildable.exec_build_again (h : Buildable s pay) : exec .build (s.built pay) =
    .next ((memWrite ((s.built pay).commit (s.builtUpdates pay)) .dst 0 (s.builtFrame pay)).succeed) := by
  obtain ⟨hsel, ⟨hin, hlen, hholds⟩, hshort, hfits⟩ := h
  have hregs : (s.built pay).regs = s.regs.commit (s.builtUpdates pay) := rfl
  have hregion := Regs.commit_unread (g := fun rs => (rs.payOff, rs.payLen)) s.regs payloadRegs_unread
    (builtUpdates_listed s pay)
  rw [← hregs, Prod.mk.injEq] at hregion
  obtain ⟨hoff, hpayLen⟩ := hregion
  have hpay : (s.built pay).PayloadIs pay := by
    rw [State.PayloadIs, hoff, hpayLen]
    exact ⟨hin, hlen, hholds⟩
  have hlayer : buildLayer (s.built pay).regs s.tsel pay = buildLayer s.regs s.tsel pay :=
    Regs.commit_unread (g := (buildLayer · s.tsel pay)) s.regs (buildLayer_unread s.tsel pay)
      (builtUpdates_listed s pay)
  have htsel : (s.built pay).tsel = s.tsel := rfl
  rw [exec_eq_finish, commandBody, buildBody_of_read (s := s.built pay) hsel hpay, htsel, hlayer,
    buildLayer_layout _ _ hsel, if_neg (Nat.not_lt.2 hshort), ← State.builtFrame, emit_ok_of_le]
  · rfl
  · rwa [State.builtFrame, frame_length]

/-- An error that BUILD raises it raises again: it reads nothing an error writes (R266). -/
theorem exec_build_raised_again {e : Err} (h : buildBody s = .raised e) :
    exec .build (s.raise e) = .next ((s.raise e).raise e) := by
  have hagain : buildBody (s.raise e) = .raised e :=
    (buildBody_unseen (unseen_withStatus (some e) true) s).trans (congrArg (Ending.map _) h)
  rw [exec_eq_finish, commandBody, hagain, finish_raised]

end Again

/-- Settles O47: a BUILD that fails fails again, and one that succeeds makes the same frame of the same fields. -/
theorem secondBuildIsTheSame : Obligations.SecondBuildIsTheSame := by
  intro s t h
  obtain ⟨hcsr, htsel, -⟩ := exec_frame h
  obtain ⟨u, -, rfl⟩ | ⟨e, he, rfl⟩ := (finish_eq_next_iff _ _ _).1 ((exec_eq_finish _ _).symm.trans h)
  · obtain ⟨pay, hb, hbuilt⟩ := buildable_of_success rfl h
    rw [hbuilt] at hcsr htsel ⊢
    exact ⟨_, hb.exec_build_again, builtUpdates_twice _ s pay, rfl, rfl, rfl, Memory.byteAt_writeBytes_twice s.dst 0 _,
      htsel, rfl, hcsr⟩
  · exact ⟨_, exec_build_raised_again he, rfl, rfl, rfl, rfl, fun _ => rfl, htsel, rfl, hcsr⟩

end Sys2Proof.Machine
end

section
/-! LOAD_DEFAULTS (43_builder.md R251), and BUILD on the configuration that it and reset leave (R252). -/

namespace Sys2Proof.Machine

open Sys2Proof Sys2Proof.Claims

/-- The registers with every layer field at its reset value and the default payload's region (R251). -/
def defaultRegs (rs : Regs) (p : Params) : Regs :=
  { rs with
    ethDstHi := 0xFFFF, ethDstLo := 0xFFFFFFFF, ethSrcHi := 0x0011, ethSrcLo := 0x22334455, ethType := 0x0800,
    ipTos := 0x00, ipId := 0xD431, ipFlags := 0b000, ipFrag := 0x0000, ipTtl := 0x40, ipProto := 0x00,
    ipSrc := 0xC0A80164, ipDst := 0xC0A80101, tcpSport := 0x3039, tcpDport := 0x0050, tcpSeq := 0x00000000,
    tcpAck := 0x00000000, tcpFlags := 0x002, tcpWin := 0xFFFF, tcpUrg := 0x0000, udpSport := 0x3039,
    udpDport := 0x0035, icmpType := 0x08, icmpCode := 0x00, icmpId := 0x0001, icmpSeq := 0x0001,
    payOff := 0, payLen := BitVec.ofNat 32 p.defaultPayload.length }

theorem Regs.commit_defaultUpdates (rs : Regs) (p : Params) : rs.commit (defaultUpdates p) = defaultRegs rs p := by
  simp [defaultUpdates, layerFieldRegs, State.csr, Regs.reset, Regs.get, Regs.commit, Regs.set, defaultRegs]

theorem reset_eq_defaultRegs (p : Params) :
    Regs.reset p.defaultPayload.length = defaultRegs (Regs.reset p.defaultPayload.length) p := rfl

/-- Settles O49: the body commits the reset values and stores the default payload. -/
theorem loadDefaultsMeaning : Obligations.LoadDefaultsMeaning := by
  refine fun s => ⟨⟨s.src.writeBytes 0 s.params.defaultPayload, ?_, Memory.byteAt_writeBytes _ _ _⟩,
    illegalForms _ s⟩
  rw [exec_eq_finish, commandBody, finish_done]
  simp only [State.commit, Regs.commit_defaultUpdates]
  rfl

/-- The configuration that reset and LOAD_DEFAULTS leave, whatever the other registers hold (R250, R251). -/
structure DefaultConfig (p : Params) (s : State) : Prop where
  params : s.params = p
  regs : ∃ rs, s.regs = defaultRegs rs p
  payload : s.Holds .src 0 p.defaultPayload

section Defaults

variable {p : Params} {s s' t : State}

theorem holds_of_eq {buf : Buf} {off : Nat} {b b' : Bytes} (h : s.Holds buf off b) (heq : b = b') :
    s.Holds buf off b' :=
  heq ▸ h

theorem holds_of_stored {m : Memory} {bs : Bytes} (h : Stored m s.src 0 bs) : s.Holds .src 0 bs := by
  intro k hk
  rw [State.buffer_src, h, if_pos ⟨Nat.zero_le _, by omega⟩, Nat.zero_add, Nat.sub_zero, List.getElem?_eq_getElem hk]

theorem defaultConfig_resetWith (p : Params) : DefaultConfig p (State.resetWith p) where
  params := rfl
  regs := ⟨_, reset_eq_defaultRegs p⟩
  payload := fun k hk => by simp [Memory.byteAt_cells, hk]

theorem defaultConfig_loadDefaults (h : exec .loadDefaults s = .next t) : DefaultConfig s.params t := by
  obtain ⟨⟨m, hexec, hstored⟩, -⟩ := loadDefaultsMeaning s
  cases hexec.symm.trans h
  exact ⟨rfl, ⟨s.regs, rfl⟩, holds_of_stored hstored⟩

/-- A select leaves the configuration. -/
theorem DefaultConfig.select (h : DefaultConfig p s) (sel : TSel) : DefaultConfig p (s.select sel).succeed :=
  { h with }

theorem DefaultConfig.payloadIs (h : DefaultConfig p s) (hok : p.Ok) : s.PayloadIs p.defaultPayload := by
  obtain ⟨rfl, ⟨rs, hregs⟩, hholds⟩ := h
  obtain ⟨-, hmin, -, hlen⟩ := hok
  have hoff : s.regs.payOff.toNat = 0 := by rw [hregs]; rfl
  have hpayLen : s.regs.payLen.toNat = s.params.defaultPayload.length := by
    rw [hregs]
    exact Nat.mod_eq_of_lt (by omega)
  rw [State.PayloadIs, hoff, hpayLen]
  exact ⟨by omega, rfl, hholds⟩

/-- BUILD succeeds on the default configuration under every selection. -/
theorem DefaultConfig.buildable (h : DefaultConfig p s) (hok : p.Ok) (hsel : s.tsel ≠ .none) :
    Buildable s p.defaultPayload := by
  have hpay := h.payloadIs hok
  obtain ⟨rfl, -, -⟩ := h
  obtain ⟨-, -, -, hlen⟩ := id hok
  exact buildable_of_payloadIs hok hsel hpay (by split <;> omega)

/-- With an empty default payload the frame is that of the reset state with the same selection. -/
theorem DefaultConfig.builtFrame (h : DefaultConfig p s) (hp : p.defaultPayload = []) :
    s.builtFrame p.defaultPayload = (State.reset.select s.tsel).builtFrame [] := by
  obtain ⟨-, ⟨rs, hregs⟩, -⟩ := h
  rw [hp, State.builtFrame, State.builtFrame, hregs, State.select_regs, State.select_tsel]
  cases s.tsel <;> rfl

/-- A select and BUILD on the default configuration, whichever of reset and LOAD_DEFAULTS left it (R252). -/
theorem DefaultConfig.exec_build (h : DefaultConfig p s) (hok : p.Ok) (sel : TSel) (hsel : sel ≠ .none) :
    ∃ u, exec .build (s.select sel).succeed = .next u ∧ u.errcode = none ∧
      u.regs.outLen.toNat = 34 + (if sel = .tcp then 20 else 8) + p.defaultPayload.length ∧
      (p.defaultPayload = [] → u.Holds .dst 0 ((State.reset.select sel).builtFrame [])) := by
  have hb := (h.select sel).buildable hok hsel
  refine ⟨_, hb.exec_build, rfl, ?_, fun hp => (h.select sel).builtFrame hp ▸ built_holds _ p.defaultPayload⟩
  rw [hb.outLen, transportBytes_length hb.selected, Nat.add_assoc]
  rfl

end Defaults

/-- Settles O50: both starts leave the default configuration, a select keeps it, and BUILD makes its frame of it. -/
theorem defaultsBuildUnderEverySelection : Obligations.DefaultsBuildUnderEverySelection := by
  intro p s hok hstart row hrow
  have hconfig : DefaultConfig p s := by
    obtain rfl | ⟨s0, rfl, hload⟩ := hstart
    · exact defaultConfig_resetWith p
    · exact defaultConfig_loadDefaults hload
  simp only [List.mem_cons, List.not_mem_nil, or_false] at hrow
  obtain rfl | rfl | rfl := hrow
  · obtain ⟨u, hexec, herr, hlen, hframe⟩ := hconfig.exec_build hok .tcp nofun
    exact ⟨_, u, exec_eq_finish _ _, hexec, herr, hlen,
      fun hp => ⟨fun _ => holds_of_eq (hframe hp) (by rfl), nofun, nofun⟩⟩
  · obtain ⟨u, hexec, herr, hlen, hframe⟩ := hconfig.exec_build hok .udp nofun
    exact ⟨_, u, exec_eq_finish _ _, hexec, herr, hlen,
      fun hp => ⟨nofun, fun _ => holds_of_eq (hframe hp) (by rfl), nofun⟩⟩
  · obtain ⟨u, hexec, herr, hlen, hframe⟩ := hconfig.exec_build hok .icmp nofun
    exact ⟨_, u, exec_eq_finish _ _, hexec, herr, hlen,
      fun hp => ⟨nofun, nofun, fun _ => holds_of_eq (hframe hp) (by rfl)⟩⟩

end Sys2Proof.Machine
end

section
/-! Decoding the frame BUILD wrote, layer by layer (43_builder.md R242): each decode reads its header's fields and
leaves the bytes behind the header as the payload region, which `descend` makes the next decode's input. -/

namespace Sys2Proof.Machine

open Sys2Proof Sys2Proof.Claims

/-- The fields of the Ethernet header, which DEC_ETH reads. -/
def ethFields : List Reg := [.ethDstHi, .ethDstLo, .ethSrcHi, .ethSrcLo, .ethType]

/-- The fields of the IPv4 header, which DEC_IPV4 reads. -/
def ipv4Fields : List Reg :=
  [.ipVerIhl, .ipTos, .ipTotlen, .ipId, .ipFlags, .ipFrag, .ipTtl, .ipProto, .ipCsum, .ipSrc, .ipDst]

section Layers

variable {s t u v : State} {pay header rest : Bytes}

/-- A decode that leaves the region behind the header as payload leaves the bytes behind the header there (R200). -/
theorem payloadIs_of_inputIs {rs : Regs} (hin : u.InputIs (header ++ rest)) (hmax : u.params.bufBytes ≤ 131072)
    (hoff : rs.payOff = u.regs.inOff + BitVec.ofNat 32 header.length)
    (hlen : rs.payLen = u.regs.inLen - BitVec.ofNat 32 header.length) :
    State.PayloadIs { u with errcode := none, regs := rs } rest := by
  obtain ⟨hbound, hinLen, hbytes⟩ := hin
  rw [List.length_append] at hinLen
  have hoffNat : rs.payOff.toNat = u.regs.inOff.toNat + header.length := by
    rw [hoff, BitVec.toNat_add, BitVec.toNat_ofNat]
    omega
  have hlenNat : rs.payLen.toNat = rest.length := by
    rw [hlen, BitVec.toNat_sub, BitVec.toNat_ofNat]
    omega
  refine ⟨?_, hlenNat.symm, ?_⟩
  · change rs.payOff.toNat + rs.payLen.toNat ≤ u.params.bufBytes
    omega
  · change State.Holds { u with errcode := none, regs := rs } .src rs.payOff.toNat rest
    rw [hoffNat]
    exact holds_append_right hbytes

/-- The decode command `i` in `u` succeeds, reads these registers as in `rs`, and leaves `rest` as the payload. -/
def DecodesLayer (i : Instr) (u : State) (rs : Regs) (regs : List Reg) (rest : Bytes) : Prop :=
  ∃ v, exec i u = .next v ∧ v.params = u.params ∧ v.PayloadIs rest ∧ ∀ r ∈ regs, v.csr r = rs.get r

theorem decodesLayer_of_completes {i : Instr} {rs rs' : Regs} {regs : List Reg} (hdec : Completes i u rs')
    (hin : u.InputIs (header ++ rest)) (hmax : u.params.bufBytes ≤ 131072)
    (hoff : rs'.payOff = u.regs.inOff + BitVec.ofNat 32 header.length)
    (hlen : rs'.payLen = u.regs.inLen - BitVec.ofNat 32 header.length) (hregs : ∀ r ∈ regs, rs'.get r = rs.get r) :
    DecodesLayer i u rs regs rest :=
  ⟨_, hdec, rfl, payloadIs_of_inputIs hin hmax hoff hlen, hregs⟩

variable (hmax : u.params.bufBytes ≤ 131072)
include hmax

theorem decEth_decodesLayer {rs : Regs} (hin : u.InputIs (ethHeader rs rs.ethType ++ rest)) :
    DecodesLayer .decEth u rs ethFields rest := by
  have hdec := decEthMeaning u _ hin (by simp)
  have hreads := ethHeader_reads rs (b := ethHeader rs rs.ethType ++ rest) rfl
  refine decodesLayer_of_completes hdec hin hmax rfl rfl ?_
  simp [ethFields, Regs.get, hreads]

theorem decIpv4_decodesLayer {rs : Regs} (hver : rs.ipVerIhl = 0x45)
    (hin : u.InputIs (ipv4Header rs rs.ipProto rs.ipTotlen rs.ipCsum ++ rest)) :
    DecodesLayer .decIpv4 u rs ipv4Fields rest := by
  have hlen : (ipv4Header rs rs.ipProto rs.ipTotlen rs.ipCsum ++ rest).length = 20 + rest.length :=
    List.length_append
  have hdec := decIpv4Meaning u _ hin (by omega)
  have hreads := ipv4Header_reads rs (b := ipv4Header rs rs.ipProto rs.ipTotlen rs.ipCsum ++ rest) rfl
  have hk : min (4 * ((rd8 (ipv4Header rs rs.ipProto rs.ipTotlen rs.ipCsum ++ rest) 0).extractLsb' 0 4).toNat)
      (ipv4Header rs rs.ipProto rs.ipTotlen rs.ipCsum ++ rest).length = 20 := by
    simp [hreads]
  simp only [hk] at hdec
  refine decodesLayer_of_completes hdec hin hmax rfl rfl ?_
  simp [ipv4Fields, Regs.get, hreads, hver]

end Layers

section Transport

variable {s t w : State} {pay : Bytes}

/-- An output of a command, found as the input region of `w`, is copied back. -/
theorem Emits.copiedBack {i : Instr} {rs : Regs} {out : Bytes} (h : Emits i s rs out) (hin : w.InputIs out)
    (hw : w.params = s.params) (hlen : rs.outLen = BitVec.ofNat 32 out.length) :
    ∃ t, exec i s = .next t ∧ t.errcode = none ∧ t.regs = rs ∧ CopiedBack t w := by
  obtain ⟨d, hexec, hstored⟩ := h
  obtain ⟨hbound, hinLen, hbytes⟩ := hin
  have hlen' : w.regs.inLen = rs.outLen := by rw [hlen, hinLen, BitVec.ofNat_toNat, BitVec.setWidth_eq]
  refine ⟨_, hexec, rfl, rfl, hw, hlen', hbound, fun k hk => ?_⟩
  have hk' : k < out.length := by rwa [hinLen, hlen']
  rw [show w.src.byteAt _ = _ from hbytes k hk', hstored, if_pos ⟨Nat.zero_le _, by omega⟩, Nat.sub_zero,
    List.getElem?_eq_getElem hk']

theorem DecodesBack.of_results {i : Instr} {fields results : List Reg} {t' : State}
    (h : DecodesBack i fields results s t' w) (hres : ∀ r ∈ results, t'.csr r = t.csr r) :
    DecodesBack i fields results s t w := by
  obtain ⟨v, hexec, herr, hpay, hfields, hresults⟩ := h
  exact ⟨v, hexec, herr, hpay, hfields, fun r hr => (hresults r hr).trans (hres r hr)⟩

/-- The transport in a built frame is what its own encode command writes around the payload, so its decode undoes it
(R185). -/
theorem transport_decodesBack (hok : s.params.Ok) (hb : Buildable s pay) (hw : w.params = s.params)
    (hin : w.InputIs (transportBytes s.regs s.tsel pay)) {d : Instr} {fields results : List Reg}
    (hd : transportDecode s.tsel = some (d, fields, results)) : DecodesBack d fields results s (s.built pay) w := by
  obtain ⟨hsel, hpay, hshort, hfits⟩ := hb
  rw [transportBytes_length hsel] at hshort hfits
  cases hs : s.tsel <;> rw [hs] at hd hin hshort hfits <;>
    simp only [reduceCtorEq, reduceIte] at hshort hfits <;> cases hd
  case icmp =>
    obtain ⟨t, hexec, herr, hregs, hcopy⟩ :=
      (encIcmpMeaning s pay hpay (by omega)).copiedBack hin hw (by simp)
    obtain ⟨-, -, -, -, hback⟩ := encodeThenDecodeReproducesFields s t w hok herr hcopy
    refine DecodesBack.of_results (hback hexec) ?_
    simp [State.csr, hregs, State.built, State.builtUpdates, hs, transportUpdates, ipv4Results, Regs.commit,
      Regs.set, Regs.get]
  case tcp =>
    obtain ⟨t, hexec, herr, hregs, hcopy⟩ :=
      (encTcpMeaning s pay hpay (by omega) (by omega)).copiedBack hin hw (by simp)
    obtain ⟨-, -, hback, -, -⟩ := encodeThenDecodeReproducesFields s t w hok herr hcopy
    refine DecodesBack.of_results (hback hexec) ?_
    simp [State.csr, hregs, State.built, State.builtUpdates, hs, transportUpdates, ipv4Results, Regs.commit,
      Regs.set, Regs.get]
  case udp =>
    obtain ⟨t, hexec, herr, hregs, hcopy⟩ :=
      (encUdpMeaning s pay hpay (by omega) (by omega)).copiedBack hin hw (by simp)
    obtain ⟨-, -, -, hback, -⟩ := encodeThenDecodeReproducesFields s t w hok herr hcopy
    refine DecodesBack.of_results (hback hexec) ?_
    simp [State.csr, hregs, State.built, State.builtUpdates, hs, transportUpdates, ipv4Results, Regs.commit,
      Regs.set, Regs.get]

end Transport

section InPlace

variable {s t u v v' : State} {pay out : Bytes} {i : Instr} {r : Reg}

theorem inputIs_of_copiedOutput (hholds : t.Holds .dst 0 out) (hlen : out.length = t.regs.outLen.toNat)
    (hcopy : CopiedBack t u) : u.InputIs out := by
  obtain ⟨-, hinLen, hbound, hbytes⟩ := hcopy
  refine ⟨hbound, by rw [hinLen, hlen], fun k hk => ?_⟩
  have hread := hholds k hk
  rw [Nat.zero_add] at hread
  exact (hbytes k (hlen ▸ hk)).trans hread

theorem descend_csr (hoff : r ≠ .inOff) (hlen : r ≠ .inLen) : (descend v).csr r = v.csr r := by
  cases r with
  | inOff => exact absurd rfl hoff
  | inLen => exact absurd rfl hlen
  | _ => rfl

/-- Decoding the next layer in place keeps what the layers above have left. -/
theorem csr_of_exec_descend (h : exec i (descend v) = .next v')
    (hr : r ∉ Reg.inOff :: .inLen :: mayWrite v.tsel i) : v'.csr r = v.csr r := by
  obtain ⟨hoff, hlen, hwrite⟩ : r ≠ .inOff ∧ r ≠ .inLen ∧ r ∉ mayWrite v.tsel i := by simpa using hr
  exact ((exec_frame h).csr r hwrite).trans (descend_csr hoff hlen)

/-- The registers as the outer headers of a built frame carry them. -/
def State.carriedRegs (s : State) (pay : Bytes) : Regs :=
  { builtRegs s.regs s.tsel.code (transportBytes s.regs s.tsel pay) with ethType := 0x0800, ipProto := s.tsel.code }

theorem builtFrame_eq (s : State) (pay : Bytes) : s.builtFrame pay =
    ethHeader (s.carriedRegs pay) (s.carriedRegs pay).ethType ++
      (ipv4Header (s.carriedRegs pay) (s.carriedRegs pay).ipProto (s.carriedRegs pay).ipTotlen
        (s.carriedRegs pay).ipCsum ++ transportBytes s.regs s.tsel pay) := rfl

theorem ethFields_kept (sel : TSel) : ∀ r ∈ ethFields, r ∉ Reg.inOff :: .inLen :: mayWrite sel .decIpv4 := by
  simp [ethFields, mayWrite]

/-- The decode of a transport writes no field of the outer headers. -/
theorem outerFields_kept {sel : TSel} {d : Instr} {fields results : List Reg}
    (hd : transportDecode sel = some (d, fields, results)) (sel' : TSel) :
    ∀ r ∈ ethFields ++ ipv4Fields, r ∉ Reg.inOff :: .inLen :: mayWrite sel' d := by
  cases sel <;> cases hd <;> simp [ethFields, ipv4Fields, mayWrite]

theorem Regs.eq_of_get_ethType {rs rs' : Regs} (h : rs.get .ethType = rs'.get .ethType) : rs.ethType = rs'.ethType := by
  simpa [Regs.get] using congrArg (BitVec.setWidth 16) h

theorem Regs.eq_of_get_ipProto {rs rs' : Regs} (h : rs.get .ipProto = rs'.get .ipProto) : rs.ipProto = rs'.ipProto := by
  simpa [Regs.get] using congrArg (BitVec.setWidth 8) h

end InPlace

/-- Settles O48: each decode reads its header back and leaves the layer inside it, which the next decode takes in place,
and no decode writes what the layers above have left. -/
theorem builtFrameDecodesLayerByLayer : Obligations.BuiltFrameDecodesLayerByLayer := by
  intro s t u hok h ht hcopy d fields results hd
  obtain ⟨pay, hb, rfl⟩ := buildable_of_success ht h
  have hin : u.InputIs (s.builtFrame pay) := inputIs_of_copiedOutput (built_holds s pay)
    (by rw [hb.outLen, State.builtFrame, frame_length]) hcopy
  obtain ⟨hparams, -⟩ : u.params = s.params ∧ _ := hcopy
  obtain ⟨-, -, hmax, -⟩ := id hok
  obtain ⟨v1, hexec1, hparams1, hpay1, hregs1⟩ :=
    decEth_decodesLayer (hparams ▸ hmax) (builtFrame_eq s pay ▸ hin)
  have hparams1 : (descend v1).params = s.params := hparams1.trans hparams
  obtain ⟨v2, hexec2, hparams2, hpay2, hregs2⟩ :=
    decIpv4_decodesLayer (u := descend v1) (hparams1 ▸ hmax) rfl hpay1
  have hparams2 : (descend v2).params = s.params := hparams2.trans hparams1
  obtain ⟨v3, hexec3, herr3, hpay3, hfields, hresults⟩ :=
    transport_decodesBack (w := descend v2) hok hb hparams2 hpay2 hd
  have houter : ∀ r ∈ ethFields ++ ipv4Fields, v3.csr r = (s.carriedRegs pay).get r := by
    intro r hr
    rw [csr_of_exec_descend hexec3 (outerFields_kept hd _ r hr)]
    obtain heth | hip := List.mem_append.1 hr
    · rw [csr_of_exec_descend hexec2 (ethFields_kept _ r heth)]
      exact hregs1 r heth
    · exact hregs2 r hip
  refine ⟨v1, v2, v3, hexec1, hexec2, hexec3, herr3, hpay3, ?_, ?_, ?_, ?_⟩
  · refine List.forall_mem_append.2 ⟨fun r hr => (houter r ?_).trans ?_, hfields⟩ <;> revert r
    · decide
    · simp [State.carriedRegs, builtRegs, State.csr, Regs.get]
  · exact Regs.eq_of_get_ethType (houter .ethType (by decide))
  · exact Regs.eq_of_get_ipProto (houter .ipProto (by decide))
  · refine List.forall_mem_append.2 ⟨fun r hr => (houter r ?_).trans ?_, hresults⟩ <;> revert r
    · decide
    · obtain ⟨hver, htotlen, hcsum⟩ := built_ipv4Results s pay
      simp [State.carriedRegs, builtRegs, State.csr, Regs.get, hver, htotlen, hcsum]

end Sys2Proof.Machine
end

section
/-! Accesses while reset is asserted (70_reset_and_hazards.md R292). -/

namespace Sys2Proof.Machine

open Sys2Proof

section InReset

variable {s : State} {a : Access}

/-- The host's access reaches the bus whatever the level of reset; `step_of_issues` is for reset released (R90). -/
theorem step_eq_busAccess {rest : List HostOp} (hpending : s.pending = .access a :: rest) :
    step s = busAccess a { s with pending := rest } := by
  simp only [step, hostStep, hpending, hostOp]

theorem busAccess_of_asserted (hreset : s.resetIn = .asserted) (hlo : s.params.base ≤ a.addr)
    (hhi : a.addr < s.params.base + 0x80000) : busAccess a s = .refused (.inReset a) := by
  rw [busAccess, if_pos ⟨hlo, hhi⟩, hreset]

end InReset

/-- Settles O13: the level of reset is looked at before the space, the width and the operation of the access. -/
theorem accessInResetRefused : Obligations.AccessInResetRefused := by
  intro s a rest hreset hpending hlo hhi
  rw [step_eq_busAccess hpending]
  exact busAccess_of_asserted hreset hlo hhi

end Sys2Proof.Machine
end
